-- ==== Sys2Proof/Word.lean ====
section
/-! DEFINITION. The word types of THE BLOCK (`00_scope.md` R10, `30_encoding.md` R80). -/

namespace Sys2Proof

/-- `Word32`: an unsigned 32-bit value; addresses, register words and recorded frequencies (R10). -/
abbrev Word := BitVec 32

/-- One byte of the byte-addressed bus address space (R50). -/
abbrev Byte := BitVec 8

/-- BitIndex: 0 to 31, one bit within a word (R14, R84). -/
abbrev BitIndex := BitVec 5

/-- The 48-bit request word `req[47:0]` (R80). -/
abbrev ReqWord := BitVec 48

end Sys2Proof
end

