-- ==== Sys2Proof/Syntax.lean ====
section
/-! DEFINITION. The operations of THE BLOCK: one constructor per row of `spec/opcode_table.json`
(`30_encoding.md` R81, R86). -/

namespace Sys2Proof

/-- A decoded request. The two reserved rows keep the whole presented word, whose other bits R86 leaves
without meaning (log 21). -/
inductive Instr where
  /-- `RDBIT a, b` (R108). -/
  | rdbit (a : Word) (b : BitIndex)
  /-- `SETBIT a, b` (R109). -/
  | setbit (a : Word) (b : BitIndex)
  /-- `CLRBIT a, b` (R110). -/
  | clrbit (a : Word) (b : BitIndex)
  /-- `WRBIT a, b, v` (R111); `v` is in 0, 1 (R85). -/
  | wrbit (a : Word) (b : BitIndex) (v : Bool)
  /-- `INITCLK` (R143). -/
  | initclk
  /-- `GETFREQ` (R144). -/
  | getfreq
  /-- `OP = 110`, reserved (R86). -/
  | reservedOp110 (w : ReqWord)
  /-- `OP = 111`, reserved (R86). -/
  | reservedOp111 (w : ReqWord)
deriving DecidableEq, Repr

end Sys2Proof
end

