-- ==== Sys2Proof/WellFormed.lean ====
section
/-! DEFINITION. Well-formed operations. The operand types of `RDBIT`, `SETBIT`, `CLRBIT` and `WRBIT` hold exactly
the ranges R83 to R85 give, so every such term is well-formed; a reserved row's term is well-formed when the word
it keeps has that row's `OP` (R86). Alignment and register width are checks of a run (R104), not of the syntax. -/

namespace Sys2Proof

/-- The operation names a request word that decodes to it (R81, R86). -/
def Instr.wf : Instr → Bool
  | .rdbit _ _ => true
  | .setbit _ _ => true
  | .clrbit _ _ => true
  | .wrbit _ _ _ => true
  | .initclk => true
  | .getfreq => true
  | .reservedOp110 w => w.extractLsb' 40 3 == 6#3
  | .reservedOp111 w => w.extractLsb' 40 3 == 7#3

end Sys2Proof
end

