-- ==== Sys2Proof/Decode.lean ====
section
/-! DEFINITION. Decoding the 48-bit request word (`30_encoding.md` R80 to R89) and encoding it (R90). -/

namespace Sys2Proof

/-- Why a word decodes to no operation (R89). A reserved `OP` is not among them: R86's two rows are operations of
the table, whose meaning is their refusal. -/
inductive DecodeError where
  /-- A reserved bit, or a field the operation does not use, is nonzero (R87). -/
  | reservedBits
deriving DecidableEq, Repr

/-- `ADDR`, `req[31:0]` (R80, R83). -/
def reqAddr (w : ReqWord) : Word := w.extractLsb' 0 32

/-- `BIT`, `req[36:32]` (R80, R84). -/
def reqBit (w : ReqWord) : BitIndex := w.extractLsb' 32 5

/-- `VAL`, `req[37]` (R80, R85). -/
def reqVal (w : ReqWord) : Bool := w.getLsbD 37

/-- `OP`, `req[42:40]` (R80, R81). -/
def reqOp (w : ReqWord) : BitVec 3 := w.extractLsb' 40 3

/-- `req[39:38]` and `req[47:43]` are 0 (R80, R87). -/
def reservedClear (w : ReqWord) : Bool := w.extractLsb' 38 2 == 0#2 && w.extractLsb' 43 5 == 0#5

/-- The word's operation when its reserved bits are clear, before the unused-field check of R82. -/
def operationOf (op : BitVec 3) (w : ReqWord) : Instr :=
  if op = 0#3 then .rdbit (reqAddr w) (reqBit w)
  else if op = 1#3 then .setbit (reqAddr w) (reqBit w)
  else if op = 2#3 then .clrbit (reqAddr w) (reqBit w)
  else if op = 3#3 then .wrbit (reqAddr w) (reqBit w) (reqVal w)
  else if op = 4#3 then .initclk
  else if op = 5#3 then .getfreq
  else if op = 6#3 then .reservedOp110 w
  else .reservedOp111 w

/-- Every field the operation does not use is 0 (R82): `VAL` for `RDBIT`, `SETBIT`, `CLRBIT`; `ADDR`, `BIT` and
`VAL` for `INITCLK` and `GETFREQ`. -/
def unusedClear (w : ReqWord) : Bool :=
  let op := reqOp w
  if op = 3#3 then true
  else if op = 4#3 ∨ op = 5#3 then reqAddr w == 0#32 && reqBit w == 0#5 && !reqVal w
  else !reqVal w

/-- Decoding, total on all 2^48 words, with the checks in the order of R89. -/
def decode (w : ReqWord) : Except DecodeError Instr :=
  if reqOp w = 6#3 ∨ reqOp w = 7#3 then .ok (operationOf (reqOp w) w)
  else if reservedClear w && unusedClear w then .ok (operationOf (reqOp w) w)
  else .error .reservedBits

/-- A word put together from its fields, the reserved bits 0 (R80). -/
def packReq (op : BitVec 3) (v : Bool) (b : BitIndex) (a : Word) : ReqWord :=
  0#5 ++ op ++ 0#2 ++ BitVec.ofBool v ++ b ++ a

/-- The request word of an operation (R90). -/
def encode : Instr → ReqWord
  | .rdbit a b => packReq 0#3 false b a
  | .setbit a b => packReq 1#3 false b a
  | .clrbit a b => packReq 2#3 false b a
  | .wrbit a b v => packReq 3#3 v b a
  | .initclk => packReq 4#3 false 0#5 0#32
  | .getfreq => packReq 5#3 false 0#5 0#32
  | .reservedOp110 w => w
  | .reservedOp111 w => w

/-- The operation the decoder reads from a request whose bits are `w`, of which the table gives `nbits`; a request
is one 48-bit word (R88), so there is no byte order to choose, and a wider number is no request. -/
def decodeTableWord (nbits w : Nat) : Option Instr :=
  if w % 2 ^ nbits < 2 ^ 48 then
    match decode (BitVec.ofNat 48 (w % 2 ^ nbits)) with
    | .ok i => some i
    | .error _ => none
  else none

end Sys2Proof
end

