-- ==== Sys2Proof/Config.lean ====
section
/-! DEFINITION. The implementation parameters of `00_scope.md` R7 and the clock-control register map of
`10_state.md` R33, as plain data; a field has the default R7 gives it, and the OPEN parameters have none.
The general-knowledge ("gk") defaults are the spec's own supply: PRESUMED (log 13). -/

namespace Sys2Proof

/-- One update-enable acknowledge location: `ACK_ADDR(u)`, `ACK_BIT(u)` (R7). -/
structure AckLoc where
  addr : Word
  bit  : BitIndex := 0
deriving DecidableEq, Repr

/-- An inclusive range of addresses; MAPPED is the union of such ranges (R7, R61). -/
structure AddrRange where
  lo : Word
  hi : Word
deriving DecidableEq, Repr

/-- `REG_WIDTH(addr) = top + 1`: an address whose register is narrower than 32 bits (R7, R84). -/
structure RegWidth where
  addr : Word
  top  : BitIndex
deriving DecidableEq, Repr

/-- `SYSCON_BASE` and the register offsets of R33 (gk). -/
structure ClockMap where
  base         : Word := 0x40048000
  sysPllCtrl   : Word := 0x008
  sysPllStat   : Word := 0x00C
  usbPllCtrl   : Word := 0x010
  usbPllStat   : Word := 0x014
  sysOscCtrl   : Word := 0x020
  sysPllClkSel : Word := 0x040
  sysPllClkUen : Word := 0x044
  usbPllClkSel : Word := 0x048
  usbPllClkUen : Word := 0x04C
  mainClkSel   : Word := 0x070
  mainClkUen   : Word := 0x074
  sysAhbClkDiv : Word := 0x078
  usbClkSel    : Word := 0x0C0
  usbClkUen    : Word := 0x0C4
  pdRunCfg     : Word := 0x238
deriving DecidableEq, Repr

/-- The address of a clock-control register: `SYSCON_BASE` plus its offset (R33). -/
def ClockMap.reg (m : ClockMap) (offset : Word) : Word := m.base + offset

/-- The six status and update-enable registers that `VOLATILE` holds by default (R7). -/
def ClockMap.volatileRegs (m : ClockMap) : List Word :=
  [m.reg m.sysPllStat, m.reg m.usbPllStat, m.reg m.sysPllClkUen, m.reg m.mainClkUen, m.reg m.usbPllClkUen,
   m.reg m.usbClkUen]

/-- R33's registers with their reset values (gk), what `MEM_INIT` holds by default (R7, R235). -/
def ClockMap.resetWords (m : ClockMap) : List (Word × Word) :=
  [(m.reg m.sysPllCtrl, 0), (m.reg m.sysPllStat, 0), (m.reg m.usbPllCtrl, 0), (m.reg m.usbPllStat, 0),
   (m.reg m.sysOscCtrl, 0), (m.reg m.sysPllClkSel, 0), (m.reg m.sysPllClkUen, 0), (m.reg m.usbPllClkSel, 0),
   (m.reg m.usbPllClkUen, 0), (m.reg m.mainClkSel, 0), (m.reg m.mainClkUen, 0), (m.reg m.sysAhbClkDiv, 1),
   (m.reg m.usbClkSel, 0), (m.reg m.usbClkUen, 0), (m.reg m.pdRunCfg, 0x0000EDF0)]

/-- The parameters of R7. They are fixed for a run: no step writes them. A default that R7 words by other parameters
(`ACK_ADDR`, `VOLATILE`, `MEM_INIT`) is computed from them where a configuration leaves it out. -/
structure Config where
  /-- `BB_LO`, the window's lowest address. -/
  bbLo : Word := 0x40000000
  /-- `BB_HI`, the window's highest address. -/
  bbHi : Word := 0x400FFFFF
  highMask : Word := 0xF0000000
  lowMask : Word := 0x000FFFFF
  aliasOffset : Word := 0x02000000
  /-- `REG_WIDTH` for the addresses narrower than 32 bits; every other address has 32. -/
  regWidths : List RegWidth := []
  /-- `ENV_WRITABLE`: words other agents may change between steps. -/
  envWritable : List Word := []
  /-- `MAPPED`, OPEN. -/
  mapped : List AddrRange
  map : ClockMap := {}
  sysOscPdBit : BitIndex := 5
  sysPllPdBit : BitIndex := 7
  usbPllPdBit : BitIndex := 8
  lockBit : BitIndex := 0
  uenBit : BitIndex := 0
  /-- `ACK_ADDR`, `ACK_BIT` of `SYSPLLCLKUEN`: by default the register itself and bit 0. -/
  ackPll : AckLoc := { addr := map.reg map.sysPllClkUen }
  /-- of `MAINCLKUEN`. -/
  ackMain : AckLoc := { addr := map.reg map.mainClkUen }
  /-- of `USBPLLCLKUEN`. -/
  ackUsbPll : AckLoc := { addr := map.reg map.usbPllClkUen }
  /-- of `USBCLKUEN`. -/
  ackUsb : AckLoc := { addr := map.reg map.usbClkUen }
  /-- `VOLATILE`: words whose reads are draws; by default the six registers and any ACK address. -/
  volatileWords : List Word := map.volatileRegs ++ [ackPll.addr, ackMain.addr, ackUsbPll.addr, ackUsb.addr]
  /-- `MEM_INIT`: launch words by their word address, the first entry of an address counting; by default R33's reset
  values at the map's own addresses, wherever it puts the registers (DEDUCED, log 4). A word with no entry, OPEN in R7,
  launches as 0 (DESIGN CHOICE, log 4). -/
  memInit : List (Word × Word) := map.resetWords
  /-- `F_XTAL` in Hz, OPEN. -/
  fXtal : Nat
  fIrc : Nat := 12000000
  xtalRangeThreshold : Nat := 20000000
  oscBypass : Nat := 0
  /-- `OSC_SETTLE_ITER`, OPEN; R24 requires it below 2^32. -/
  oscSettleIter : Word
  pllSrc : Nat := 1
  pllCtrl : Nat := 0x25
  mainSel : Nat := 3
  busDiv : Nat := 1
  usbEnable : Bool := false
  usbPllSrc : Nat := 1
  usbPllCtrl : Nat := 0x23
  usbSel : Nat := 0
deriving DecidableEq, Repr

/-- The test configuration of decision D35: R7's defaults, `F_XTAL` = 12 MHz, `OSC_SETTLE_ITER` = 2, and MAPPED
true of the clock-control words of R33 and three more words only. DESIGN CHOICE for the machine after reset
(log 3); any other configuration is another state. -/
def Config.d35 : Config :=
  { fXtal := 12000000
    oscSettleIter := 2
    mapped :=
      [⟨0x40048008, 0x40048017⟩, ⟨0x40048020, 0x40048023⟩, ⟨0x40048040, 0x4004804F⟩,
       ⟨0x40048070, 0x4004807B⟩, ⟨0x400480C0, 0x400480C7⟩, ⟨0x40048238, 0x4004823B⟩,
       ⟨0x40000000, 0x40000003⟩, ⟨0x400FFFFC, 0x400FFFFF⟩, ⟨0x50008000, 0x50008003⟩] }

/-- The n-th draw of the environment: any value, under no law (R12 `draw`). A FREE VALUE: it has no body, so
nothing is provable of it (log 5). -/
opaque Config.freeDraw : Nat → Word

end Sys2Proof
end

