-- ==== Sys2Proof/Machine/State.lean ====
section
/-! DEFINITION. The state of THE BLOCK and of its environment as plain data (`10_state.md` R20, R79; `20_memory.md`
R51, R52), the reasons a step stops, and the machine right after reset (R39, R235). -/

namespace Sys2Proof.Machine

/-- Memory: (address, byte) pairs in the canonical form of `Memory.wf`. -/
abbrev Memory := List Host.Cell

/-- `eng_phase` (R26, R106). -/
inductive EngPhase where
  | idle | aWrite | aRead | dRead | dClrR | dClrW | dSetR | dSetW
deriving DecidableEq, Repr

/-- `eng_owner`: who issued the operation in flight (R26). -/
inductive Owner where
  | client | seq
deriving DecidableEq, Repr

/-- `eng_op` (R26). -/
inductive EngOp where
  | rd | set | clr | wr
deriving DecidableEq, Repr

/-- `client_op`: the six operations of R81. -/
inductive ClientOp where
  | rdbit | setbit | clrbit | wrbit | initclk | getfreq
deriving DecidableEq, Repr

/-- The 33 states of the CBS (R141). The register `seqState` holds their 6-bit codes. -/
inductive SeqState where
  | idle | oscPwrup | oscCfg | oscSettle
  | pllsrcWr | pllsrcHs1 | pllsrcHs0 | pllsrcHs1b | pllsrcAck
  | pllPwrup | pllCfg | pllLock
  | mainWr | mainHs1 | mainHs0 | mainHs1b | mainAck
  | divWr | record
  | usbsrcWr | usbsrcHs1 | usbsrcHs0 | usbsrcHs1b | usbsrcAck
  | usbPwrup | usbpllCfg | usbpllLock
  | usbselWr | usbselHs1 | usbselHs0 | usbselHs1b | usbselAck
  | stable
deriving DecidableEq, Repr

/-- The phases of the CBS that gate requests (R103). -/
inductive SeqPhase where
  | preInit | running | stable
deriving DecidableEq, Repr

/-- What a CBS state does (R141). -/
inductive SeqAction where
  /-- `S_IDLE`: wait for `INITCLK`; `S_STABLE`: none. -/
  | rest
  /-- `ENG(op, a, b)`, R145. -/
  | eng (op : EngOp) (a : Word) (b : BitIndex)
  /-- `WORD(a, v)`, R146. -/
  | word (a v : Word)
  /-- the settle tick, R151. -/
  | settle
  /-- `clock_hz <- FREQ`, R161. -/
  | record
deriving DecidableEq, Repr

/-- The four update-enable registers (R141): `u_pll`, `u_main`, `u_usbpll`, `u_usb`. -/
inductive UenReg where
  | pll | main | usbPll | usb
deriving DecidableEq, Repr

/-- An observable event (R51). -/
inductive Event where
  | busR (a d : Word)
  | busW (a d : Word)
  | resp (d : Word)
deriving DecidableEq, Repr

/-- What happens outside THE BLOCK just before one step: `rst`, a request the client adds, and changes other agents
make to words of ENV_WRITABLE (R6, R63, R79, R230). The model's own form of the inputs (log 6). -/
structure Stimulus where
  rst    : Bool := false
  req    : Option ReqWord := none
  writes : List (Word × Word) := []
deriving DecidableEq, Repr

/-- Refusal reasons, with the codes 1 to 7 of R201 in order. -/
inductive RefuseReason where
  /-- A check WF1 to WF7 fails (R9): raised by `step` before anything else. Safe: no run is admitted. -/
  | configIllformed
  /-- `OP` is 110 or 111 (R86): raised by `execReservedOp110`, `execReservedOp111`. Safe: the run ends. -/
  | reservedOp
  /-- A reserved or unused bit is nonzero (R87): raised by `accept`. Safe: the run ends. -/
  | reservedBits
  /-- A bit operation or `GETFREQ` in PRE-INIT (R103). Safe: the run ends. -/
  | notInitialised
  /-- `INITCLK` in STABLE (R103). Safe: the run ends. -/
  | initTwice
  /-- A bit operation with `ADDR[1:0] != 0` (R104). Safe: the run ends. -/
  | unalignedAddr
  /-- A bit operation with `BIT >= REG_WIDTH(ADDR)` (R104). Safe: the run ends. -/
  | bitOutOfRange
deriving DecidableEq, Repr

/-- Why a step stops with a fault, with the codes 1 and 2 of R202 in order. -/
inductive Fault where
  /-- A bus transaction to a word MAPPED is false of (R61): raised by `busRead`, `busWrite`. Safe: the run ends. -/
  | unmapped
  /-- `seq_state` holds an unused code, or the registers disagree (R40): raised by `blockStep`, and by a meaning run
  where R103 says it cannot run. Safe: no run from reset raises it. -/
  | internalState
deriving DecidableEq, Repr

/-- Why a step is refused. -/
inductive Refusal where
  /-- No meaning yet, by mnemonic: raised by `exec` only. Safe: the machine stops. -/
  | notModelled (mnemonic : String)
  /-- The refusal R201 names: raised by `step` of an ill-formed configuration, and by every step after the one that
  set the `refused` mark (R29). Safe: the machine stops. -/
  | reason (r : RefuseReason)
deriving DecidableEq, Repr

/-- THE BLOCK's registers (R20), its response port (R79), its configuration (R7) and its environment (R51, R52). -/
structure State where
  /-- `seq_state`, R22. -/
  seqState : BitVec 6
  /-- `seq_issued`, R23. -/
  seqIssued : Bool
  /-- `settle_cnt`, R24. -/
  settleCnt : Word
  /-- `clock_hz`, ClockState: `none` until the CBS records it, R25. -/
  clockHz : Option Word
  /-- `eng_phase`, R26. -/
  engPhase : EngPhase
  /-- `eng_owner`, R26. -/
  engOwner : Owner
  /-- `eng_op`, R26. -/
  engOp : EngOp
  /-- `eng_addr`, R26. -/
  engAddr : Word
  /-- `eng_bit`, R26. -/
  engBit : BitIndex
  /-- `eng_val`, R26. -/
  engVal : Bool
  /-- `eng_alias`, R26. -/
  engAlias : Word
  /-- `eng_wdata`, R26. -/
  engWdata : Word
  /-- `eng_tmp`, R26. -/
  engTmp : Word
  /-- `eng_result`, R27. -/
  engResult : Bool
  /-- `eng_done`, R27. -/
  engDone : Bool
  /-- `client_busy`, R28. -/
  clientBusy : Bool
  /-- `client_op`, R28. -/
  clientOp : Option ClientOp
  /-- the sticky mark `refused`, R29. -/
  refused : Option RefuseReason
  /-- the sticky mark `fault`, R29. -/
  fault : Option Fault
  /-- `rsp_valid` and `rsp_data`: the response the last step gave, R79, R91 (log 16). -/
  rsp : Option Word
  /-- the configuration, R7; no step writes it (log 2). -/
  cfg : Config
  /-- `mem`, R52. -/
  mem : Memory
  /-- the environment's coming draws, R12 (the model's own field, log 5). -/
  draws : List Word
  /-- how many draws were taken (the model's own field, log 5). -/
  drawCount : Nat
  /-- the client's requests; the head is the word on the port (the model's own field, log 7). -/
  reqs : List ReqWord
  /-- what happens outside before each coming step (the model's own field, log 6). -/
  stimuli : List Stimulus
  /-- the events of the run in the order performed, R51. -/
  events : List Event
deriving DecidableEq, Repr

/-- The launch state for a configuration (R230, R235): every block field as R39 says, and nothing listed in memory, so
that every byte reads as the configuration's MEM_INIT. The engine's operand registers, which R39 leaves unspecified, hold
zeros (DESIGN CHOICE, log 8). -/
def State.launch (c : Config) : State :=
  { seqState := 0, seqIssued := false, settleCnt := 0, clockHz := none
    engPhase := .idle, engOwner := .client, engOp := .rd, engAddr := 0, engBit := 0, engVal := false
    engAlias := 0, engWdata := 0, engTmp := 0, engResult := false, engDone := false
    clientBusy := false, clientOp := none, refused := none, fault := none, rsp := none
    cfg := c, mem := [], draws := [], drawCount := 0, reqs := [], stimuli := [], events := [] }

/-- The machine right after reset: R39, and the configuration of D35 (log 3), whose MEM_INIT is R33's reset values
(log 4). -/
def State.reset : State := State.launch Config.d35

end Sys2Proof.Machine
end

