-- ==== Sys2Proof/Machine/Operands.lean ====
section
/-! DEFINITION. Operands and addresses: the region test and the alias address (`40_bit_access.md` R100, R101), the
alias decode (`20_memory.md` R54), the parameters as functions of an address (`00_scope.md` R7), the operand checks
(R104), and the clock-control registers (`10_state.md` R33). -/

namespace Sys2Proof.Machine

/-- `zext_32` of one bit (R10). -/
def bitWord (v : Bool) : Word := if v then 1 else 0

/-- `1 << b` (R106). -/
def bitMask (b : BitIndex) : Word := 1#32 <<< b.toNat

/-- Bit `b` of a word, `(w >> b)[0]` (R106). -/
def bitOf (w : Word) (b : BitIndex) : Bool := w.getLsbD b.toNat

/-- `w | m`, the set half of a direct access (R106). -/
def setBitIn (w : Word) (b : BitIndex) : Word := w ||| bitMask b

/-- `w & ~m`, the clear half of a direct access (R106). -/
def clearBitIn (w : Word) (b : BitIndex) : Word := w &&& ~~~(bitMask b)

/-- The word with bit `b` made `v`: `(w & ~(1 << b)) | (zext_32(v) << b)` (R53). -/
def putBit (w : Word) (b : BitIndex) (v : Bool) : Word := clearBitIn w b ||| (bitWord v <<< b.toNat)

/-- `a[1:0] = 0` (R56). -/
def wordAligned (a : Word) : Bool := a.extractLsb' 0 2 == 0#2

/-- `InWindow(a)`: both bounds inclusive, unsigned (R100). -/
def inWindow (c : Config) (a : Word) : Bool := decide (c.bbLo ≤ a) && decide (a ≤ c.bbHi)

/-- `Alias(a, b)`, every operation modulo 2^32 (R101). -/
def aliasAddr (c : Config) (a : Word) (b : BitIndex) : Word :=
  (a &&& c.highMask) + c.aliasOffset + ((a &&& c.lowMask) <<< 5) + (b.setWidth 32 <<< 2)

/-- `ALIAS_LO = Alias(BB_LO, 0)` (R8). -/
def aliasLo (c : Config) : Word := aliasAddr c c.bbLo 0

/-- `ALIAS_HI = Alias(BB_HI & ~3, 31) + 3` (R8). -/
def aliasHi (c : Config) : Word := aliasAddr c (c.bbHi &&& ~~~3#32) 31 + 3

/-- The address lies in the alias window `[ALIAS_LO, ALIAS_HI]` (R14, R52). -/
def inAliasWindow (c : Config) (a : Word) : Bool := decide (aliasLo c ≤ a) && decide (a ≤ aliasHi c)

/-- `AliasDecode(A)`: the word and the bit an alias address stands for (R54). -/
def aliasDecode (c : Config) (addr : Word) : Word × BitIndex :=
  let baseHi := c.bbLo &&& c.highMask
  let off := addr - (baseHi + c.aliasOffset)
  (baseHi + ((off >>> 7) <<< 2), (off >>> 2).setWidth 5)

/-- `MAPPED(a)` (R7, R61). -/
def isMapped (c : Config) (a : Word) : Bool := c.mapped.any fun r => decide (r.lo ≤ a) && decide (a ≤ r.hi)

/-- The word is in `VOLATILE` (R7, R52). -/
def isVolatile (c : Config) (a : Word) : Bool := c.volatileWords.contains a

/-- The word is in `ENV_WRITABLE` (R7, R63). -/
def isEnvWritable (c : Config) (a : Word) : Bool := c.envWritable.contains a

/-- `REG_WIDTH(a)`, 32 where no narrower width is given (R7). -/
def regWidth (c : Config) (a : Word) : Nat :=
  match c.regWidths.find? (fun r => r.addr == a) with
  | some r => r.top.toNat + 1
  | none => 32

/-- The operand checks of a client's bit operation, the first that fails deciding (R104). -/
def operandCheck (c : Config) (a : Word) (b : BitIndex) : Option RefuseReason :=
  if wordAligned a = false then some .unalignedAddr
  else if regWidth c a ≤ b.toNat then some .bitOutOfRange
  else none

/-- The address of a clock-control register: `SYSCON_BASE` plus its offset (R33). -/
def regAt (c : Config) (offset : Word) : Word := c.map.base + offset

/-- The address of an update-enable register (R141). -/
def uenAddr (c : Config) : UenReg → Word
  | .pll => regAt c c.map.sysPllClkUen
  | .main => regAt c c.map.mainClkUen
  | .usbPll => regAt c c.map.usbPllClkUen
  | .usb => regAt c c.map.usbClkUen

/-- `ACK_ADDR(u)` and `ACK_BIT(u)` (R7, R150). -/
def ackLoc (c : Config) : UenReg → AckLoc
  | .pll => c.ackPll
  | .main => c.ackMain
  | .usbPll => c.ackUsbPll
  | .usb => c.ackUsb

/-- `1 << UEN_BIT`, the word a handshake writes first and third (R150). -/
def uenWord (c : Config) : Word := bitMask c.uenBit

/-- `FREQRANGE`: 1 when the crystal is strictly above the threshold (R148). -/
def freqRange (c : Config) : Nat := if c.xtalRangeThreshold < c.fXtal then 1 else 0

/-- `OSCCTRL_VALUE = (FREQRANGE << 1) | OSC_BYPASS` (R148). -/
def oscCtrlValue (c : Config) : Word :=
  (BitVec.ofNat 32 (freqRange c) <<< 1) ||| BitVec.ofNat 32 c.oscBypass

/-- `f_pllin` (R160). -/
def fPllIn (c : Config) : Nat := if c.pllSrc = 0 then c.fIrc else c.fXtal

/-- `M_PLL = PLL_CTRL[4:0] + 1` (R8, R160). -/
def mPll (c : Config) : Nat := c.pllCtrl % 32 + 1

/-- `f_pllout = f_pllin * M_PLL` (R160). -/
def fPllOut (c : Config) : Nat := fPllIn c * mPll c

/-- `f_main` (R160); `MAIN_SEL` is 0, 1 or 3 by WF6. -/
def fMain (c : Config) : Nat :=
  if c.mainSel = 0 then c.fIrc else if c.mainSel = 1 then fPllIn c else fPllOut c

/-- `FREQ = f_main / BUS_DIV`, floor division (R11, R160). -/
def freqHz (c : Config) : Nat := fMain c / c.busDiv

end Sys2Proof.Machine
end

