-- ==== Sys2Proof/Machine/Configuration.lean ====
section
/-! DEFINITION. The well-formedness of a configuration, WF1 to WF7 of `00_scope.md` R9. -/

namespace Sys2Proof.Machine

/-- WF1: the window's bounds are a word's first and last byte, in order. -/
def wf1 (c : Config) : Bool :=
  c.bbLo.extractLsb' 0 2 == 0#2 && c.bbHi.extractLsb' 0 2 == 3#2 && decide (c.bbLo ≤ c.bbHi)

/-- Every bit at or below the highest set bit of `x`. -/
def smear (x : Word) : Word :=
  let x1 := x ||| (x >>> 1)
  let x2 := x1 ||| (x1 >>> 2)
  let x3 := x2 ||| (x2 >>> 4)
  let x4 := x3 ||| (x3 >>> 8)
  x4 ||| (x4 >>> 16)

/-- The bits in which two word addresses of the window can differ. -/
def windowVaries (c : Config) : Word := smear ((c.bbLo ^^^ c.bbHi) &&& ~~~3#32) &&& ~~~3#32

/-- WF2, decided without walking the window: no bit that varies within it is in `HIGH_MASK`, each is in `LOW_MASK`,
and each bit all its words share is in one of the masks or 0. `Sys2Proof.Machine.windowAgrees` is WF2 as R9 words
it (log 24). -/
def wf2 (c : Config) : Bool :=
  (c.highMask &&& windowVaries c) == 0#32
    && (windowVaries c &&& ~~~c.lowMask) == 0#32
    && (c.bbLo &&& ~~~(c.highMask ||| c.lowMask)) == 0#32

/-- WF2 in R9's own words: every word address of the window is made of the masks' bits and agrees with the window's
base in the bits of `HIGH_MASK`. -/
def windowAgrees (c : Config) : Prop :=
  ∀ a : Word, c.bbLo ≤ a → a ≤ c.bbHi → wordAligned a = true →
    a &&& ~~~(c.highMask ||| c.lowMask) = 0#32 ∧ a &&& c.highMask = c.bbLo &&& c.highMask

/-- WF3: the last alias word is below 2^32, computed without wrapping, and the alias window misses the window. -/
def wf3 (c : Config) : Bool :=
  decide ((c.bbLo &&& c.highMask).toNat + c.aliasOffset.toNat
      + (c.bbHi &&& ~~~3#32 &&& c.lowMask).toNat * 2 ^ 5 + 31 * 2 ^ 2 + 3 < 2 ^ 32)
    && (decide (aliasHi c < c.bbLo) || decide (c.bbHi < aliasLo c))

/-- WF4: the alias of (0x40000000, 5) is DOC's literal 0x42000014. -/
def wf4 (c : Config) : Bool := aliasAddr c 0x40000000#32 5#5 == 0x42000014#32

/-- The addresses of the clock-control registers of R33. -/
def clockRegs (c : Config) : List Word :=
  [regAt c c.map.sysPllCtrl, regAt c c.map.sysPllStat, regAt c c.map.usbPllCtrl, regAt c c.map.usbPllStat,
   regAt c c.map.sysOscCtrl, regAt c c.map.sysPllClkSel, regAt c c.map.sysPllClkUen, regAt c c.map.usbPllClkSel,
   regAt c c.map.usbPllClkUen, regAt c c.map.mainClkSel, regAt c c.map.mainClkUen, regAt c c.map.sysAhbClkDiv,
   regAt c c.map.usbClkSel, regAt c c.map.usbClkUen, regAt c c.map.pdRunCfg]

/-- The acknowledge locations of the four update-enable registers (R7). -/
def ackLocs (c : Config) : List AckLoc := [c.ackPll, c.ackMain, c.ackUsbPll, c.ackUsb]

/-- The bit-position parameters of R33, each with its register. -/
def bitPositions (c : Config) : List (Word × BitIndex) :=
  [(regAt c c.map.pdRunCfg, c.sysOscPdBit), (regAt c c.map.pdRunCfg, c.sysPllPdBit),
   (regAt c c.map.pdRunCfg, c.usbPllPdBit), (regAt c c.map.sysPllStat, c.lockBit),
   (regAt c c.map.usbPllStat, c.lockBit), (regAt c c.map.sysPllClkUen, c.uenBit),
   (regAt c c.map.mainClkUen, c.uenBit), (regAt c c.map.usbPllClkUen, c.uenBit),
   (regAt c c.map.usbClkUen, c.uenBit)]

/-- WF5: registers and acknowledge words are word-aligned and MAPPED, and bit positions are within their register. -/
def wf5 (c : Config) : Bool :=
  (clockRegs c).all (fun a => wordAligned a && isMapped c a)
    && (ackLocs c).all (fun k => wordAligned k.addr && isMapped c k.addr && decide (k.bit.toNat < regWidth c k.addr))
    && (bitPositions c).all (fun p => decide (p.2.toNat < regWidth c p.1))

/-- WF6: the selector, control and divider parameters are in range. -/
def wf6 (c : Config) : Bool :=
  decide (c.pllSrc ≤ 1) && decide (c.usbPllSrc ≤ 1) && decide (c.mainSel = 0 ∨ c.mainSel = 1 ∨ c.mainSel = 3)
    && decide (c.usbSel ≤ 1) && decide (c.oscBypass ≤ 1) && decide (c.pllCtrl < 0x80)
    && decide (c.usbPllCtrl < 0x80) && decide (1 ≤ c.busDiv) && decide (c.busDiv ≤ 255)

/-- WF7: the frequencies are below 2^32. -/
def wf7 (c : Config) : Bool :=
  decide (c.fXtal < 2 ^ 32) && decide (c.fIrc < 2 ^ 32) && decide (fPllOut c < 2 ^ 32)

/-- The configuration is well-formed (R9). -/
def configWf (c : Config) : Bool := wf1 c && wf2 c && wf3 c && wf4 c && wf5 c && wf6 c && wf7 c

end Sys2Proof.Machine
end

