-- ==== Sys2Proof/Machine/Flags.lean ====
section
/-! DEFINITION. The status outputs and the derived flags of THE BLOCK: `stable`, `busy` (`10_state.md` R30),
`req_valid`, `req_ready`, `rsp_valid`, `rsp_data` (`30_encoding.md` R79, `40_bit_access.md` R103), and the CBS phase. THE
BLOCK has no condition codes (R30). -/

namespace Sys2Proof.Machine

/-- `stable = (seq_state = S_STABLE)` (R30). -/
def stableOut (s : State) : Bool := s.seqState == 0x20#6

/-- `busy = client_busy` (R30). -/
def busyOut (s : State) : Bool := s.clientBusy

/-- `req_valid`: a request word is on the port (R79). -/
def reqValid (s : State) : Bool := !s.reqs.isEmpty

/-- A mark is set (R29). -/
def marked (s : State) : Bool := s.refused.isSome || s.fault.isSome

/-- `req_ready`: a presented request is accepted on this step (R103). -/
def reqReady (s : State) : Bool :=
  reqValid s && !s.clientBusy && s.engPhase == .idle && !s.engDone && !marked s

/-- `rsp_valid`: a response is given (R79). -/
def rspValid (s : State) : Bool := s.rsp.isSome

/-- `rsp_data`: the response value while `rsp_valid` is 1 (R79, R91). While it is 0 the spec states no value for the port
and the model gives it none (DESIGN CHOICE, log 16). -/
def rspData (s : State) : Option Word := s.rsp

/-- PRE-INIT, RUNNING or STABLE (R103). -/
def seqPhase (s : State) : SeqPhase :=
  if s.seqState = 0#6 then .preInit else if s.seqState = 0x20#6 then .stable else .running

end Sys2Proof.Machine
end

