-- ==== Sys2Proof/Machine/Memory.lean ====
section
/-! DEFINITION. The memory of the run (`20_memory.md` R52) as bytes in one canonical form, its words in little-endian
order (R55), and what an unlisted byte reads as (`70_reset_and_hazards.md` R235). Both depend on the configuration's
MEM_INIT, which no step writes. -/

namespace Sys2Proof.Machine

/-- `MEM_INIT(w)` (R7, R235): the configuration's launch word, and 0 for a word it does not list, which R7 leaves OPEN
(DESIGN CHOICE, log 4). -/
def initWord (c : Config) (w : Word) : Word :=
  match c.memInit.find? (fun p => p.1 == w) with
  | some p => p.2
  | none => 0

/-- What a byte nothing has written reads as: its byte of MEM_INIT's word, in little-endian order (R55, R235; log 4). -/
def initByte (c : Config) (a : Nat) : Byte :=
  (initWord c (BitVec.ofNat 32 (a - a % 4))).extractLsb' (8 * (a % 4)) 8

/-- The canonical form from address `lo` on: addresses rise strictly, lie in the 32-bit space, and no entry equals
what an unlisted address reads as. -/
def memWfFrom (c : Config) (lo : Nat) : Memory → Bool
  | [] => true
  | (k, v) :: rest =>
    decide (lo ≤ k) && decide (k < 2 ^ 32) && decide (v ≠ initByte c k) && memWfFrom c (k + 1) rest

/-- The canonical form of memory under a configuration. -/
def Memory.wf (m : Memory) (c : Config) : Bool := memWfFrom c 0 m

/-- One byte of memory. -/
def readByte (c : Config) : Memory → Nat → Byte
  | [], a => initByte c a
  | (k, v) :: rest, a => if k = a then v else readByte c rest a

/-- Memory with one byte replaced, in canonical form again. -/
def writeByte (c : Config) : Memory → Nat → Byte → Memory
  | [], a, v => if v = initByte c a then [] else [(a, v)]
  | (k, w) :: rest, a, v =>
    if a < k then (if v = initByte c a then (k, w) :: rest else (a, v) :: (k, w) :: rest)
    else if a = k then (if v = initByte c a then rest else (a, v) :: rest)
    else (k, w) :: writeByte c rest a v

/-- The address of byte `k` of the word at `a`; addresses are modulo 2^32 (R11). -/
def byteAt (a : Word) (k : Nat) : Nat := (a + BitVec.ofNat 32 k).toNat

/-- The 32-bit word at `a`: the byte at `a + k` holds bits `[8k+7:8k]` (R55). -/
def readWord (c : Config) (m : Memory) (a : Word) : Word :=
  readByte c m (byteAt a 3) ++ readByte c m (byteAt a 2) ++ readByte c m (byteAt a 1) ++ readByte c m (byteAt a 0)

/-- Memory with the word at `a` replaced (R55). -/
def writeWord (c : Config) (m : Memory) (a v : Word) : Memory :=
  writeByte c
    (writeByte c
      (writeByte c
        (writeByte c m (byteAt a 0) (v.extractLsb' 0 8))
        (byteAt a 1) (v.extractLsb' 8 8))
      (byteAt a 2) (v.extractLsb' 16 8))
    (byteAt a 3) (v.extractLsb' 24 8)

/-- The machine's byte at an address. -/
def memByte (s : State) (x : Nat) : Byte := readByte s.cfg s.mem x

/-- The machine's word `mem[a]` (R52). -/
def memWord (s : State) (a : Word) : Word := readWord s.cfg s.mem a

end Sys2Proof.Machine
end

