-- ==== Sys2Proof/Machine/Ops.lean ====
section
/-! DEFINITION. The named operations over THE BLOCK's registers and its bus: `respond`, `raise Refuse`, `raise Fault`,
`draw` (`00_scope.md` R12), the two bus transactions (`20_memory.md` R52, R53), the engine's issue and completion
(`40_bit_access.md` R105, R107), what the environment does between steps (R63) and reset (`70_reset_and_hazards.md` R230).
THE BLOCK has no exception entry and no return from one (`60_exceptions.md` R200, R207): `raiseRefuse` and `raiseFault`
are the whole of taking an abnormal condition. -/

namespace Sys2Proof.Machine

/-- The codes of R201, for naming only. -/
def refuseCode : RefuseReason → Nat
  | .configIllformed => 1
  | .reservedOp => 2
  | .reservedBits => 3
  | .notInitialised => 4
  | .initTwice => 5
  | .unalignedAddr => 6
  | .bitOutOfRange => 7

/-- The codes of R202, for naming only. -/
def faultCode : Fault → Nat
  | .unmapped => 1
  | .internalState => 2

/-- An event is recorded after those before it (R51). -/
def emit (e : Event) (s : State) : State := { s with events := s.events ++ [e] }

/-- `respond(v)`: one response, and `client_busy` cleared (R12, R91). -/
def respond (v : Word) (s : State) : State :=
  { s with rsp := some v, clientBusy := false, events := s.events ++ [.resp v] }

/-- `raise Refuse(reason)`: recorded in the sticky mark, nothing else changes (R12, R29, R201; log 1). -/
def raiseRefuse (r : RefuseReason) (s : State) : State := { s with refused := some r }

/-- `raise Fault(reason)`: recorded in the sticky mark, nothing else changes (R12, R29, R202; log 1). -/
def raiseFault (f : Fault) (s : State) : State := { s with fault := some f }

/-- The environment's next `draw`: any value, under no law (R12; a free value, log 5). -/
def nextDraw (s : State) : Word :=
  match s.draws with
  | d :: _ => d
  | [] => Config.freeDraw s.drawCount

/-- The draw is taken. -/
def afterDraw (s : State) : State := { s with draws := s.draws.tail, drawCount := s.drawCount + 1 }

/-- Memory's word at `a` becomes `v`, with no event. -/
def storeWord (a v : Word) (s : State) : State := { s with mem := writeWord s.cfg s.mem a v }

/-- An alias read's word: any upper bits and the bit (R52, R115). -/
def aliasReadWord (d : Word) (bit : Bool) : Word := (d &&& ~~~1#32) ||| bitWord bit

/-- The bit an alias read returns: a draw for a volatile word, the memory's bit else (R52). -/
def aliasReadBit (s : State) (w : Word) (b : BitIndex) : Bool :=
  if isVolatile s.cfg w then (nextDraw s).getLsbD 0 else bitOf (memWord s w) b

/-- `MemRead(A, 4)`: the value and the state after, or the fault (R52, R61). -/
def busRead (a : Word) (s : State) : Except Fault (Word × State) :=
  if inAliasWindow s.cfg a then
    let t := aliasDecode s.cfg a
    if isMapped s.cfg t.1 then
      let v := aliasReadWord (nextDraw s) (aliasReadBit s t.1 t.2)
      .ok (v, emit (.busR a v) (afterDraw s))
    else .error .unmapped
  else if isMapped s.cfg a then
    if isVolatile s.cfg a then .ok (nextDraw s, emit (.busR a (nextDraw s)) (afterDraw s))
    else .ok (memWord s a, emit (.busR a (memWord s a)) s)
  else .error .unmapped

/-- `MemWrite(A, 4, v)`: the state after, or the fault. An alias write changes one bit of its word, indivisibly, and
takes `v[0]` (R53, R61, R66). -/
def busWrite (a v : Word) (s : State) : Except Fault State :=
  if inAliasWindow s.cfg a then
    let t := aliasDecode s.cfg a
    if isMapped s.cfg t.1 then
      .ok (emit (.busW a v) (storeWord t.1 (putBit (memWord s t.1) t.2 (v.getLsbD 0)) s))
    else .error .unmapped
  else if isMapped s.cfg a then .ok (emit (.busW a v) (storeWord a v s))
  else .error .unmapped

/-- The phase an issued operation starts in (R105). -/
def issuePhase (c : Config) (op : EngOp) (a : Word) : EngPhase :=
  if inWindow c a then (if op = .rd then .aRead else .aWrite)
  else
    match op with
    | .rd => .dRead
    | .set => .dSetR
    | .clr => .dClrR
    | .wr => .dClrR

/-- The data word of an alias write (R105). -/
def issueWdata (op : EngOp) (v : Bool) : Word :=
  match op with
  | .set => 1
  | .clr => 0
  | .wr => bitWord v
  | .rd => 0

/-- `Issue(owner, op, a, b, v)`: no bus transaction. `eng_alias` is written on the alias path only, `eng_wdata` for an
alias write only (R105; log 27). -/
def issue (owner : Owner) (op : EngOp) (a : Word) (b : BitIndex) (v : Bool) (s : State) : State :=
  { s with
    engOwner := owner, engOp := op, engAddr := a, engBit := b, engVal := v
    engAlias := if inWindow s.cfg a then aliasAddr s.cfg a b else s.engAlias
    engWdata := if inWindow s.cfg a && op != .rd then issueWdata op v else s.engWdata
    engPhase := issuePhase s.cfg op a }

/-- What an operation of the client responds: the bit of a `RD`, 0 else (R107). -/
def completionWord (s : State) : Word := if s.engOp = .rd then bitWord s.engResult else 0

/-- Completion of the operation in flight (R107). -/
def complete (s : State) : State :=
  match s.engOwner with
  | .client => respond (completionWord s) { s with engPhase := .idle }
  | .seq => { s with engPhase := .idle, engDone := true }

/-- Another agent's change of one word: only words of ENV_WRITABLE change (R63; log 20). -/
def envWrite (c : Config) (m : Memory) (p : Word × Word) : Memory :=
  if isEnvWritable c p.1 && wordAligned p.1 then writeWord c m p.1 p.2 else m

/-- What the environment does before this step, or nothing (log 6). -/
def stimulus (s : State) : Stimulus := s.stimuli.headD {}

/-- The state the step starts from: the environment's changes made, the client's new request added, the response of
the step before gone (R63, R79; log 6, log 7, log 16). -/
def absorb (s : State) : State :=
  { s with
    mem := (stimulus s).writes.foldl (envWrite s.cfg) s.mem
    reqs := s.reqs ++ (stimulus s).req.toList
    stimuli := s.stimuli.tail
    rsp := none }

/-- `rst = 1` on this step (R230). -/
def resetRaised (s : State) : Bool := (stimulus s).rst

/-- The reset step: every block field as R39, the presented request discarded, no response, the marks and the
environment as they were (R230 to R232). -/
def blockReset (s : State) : State :=
  { s with
    seqState := 0, seqIssued := false, settleCnt := 0, clockHz := none
    engPhase := .idle, engOwner := .client, engOp := .rd, engAddr := 0, engBit := 0, engVal := false
    engAlias := 0, engWdata := 0, engTmp := 0, engResult := false, engDone := false
    clientBusy := false, clientOp := none, rsp := none, reqs := s.reqs.tail }

end Sys2Proof.Machine
end

