-- ==== Sys2Proof/Machine/BitOps.lean ====
section
/-! DEFINITION. The accepting step of `RDBIT`, `SETBIT`, `CLRBIT` and `WRBIT` (`40_bit_access.md` R103, R108 to R111):
gating by the CBS phase, the operand checks, and the issue of the engine operation, whose phase steps (R106) then carry
it out, one bus transaction a step. -/

namespace Sys2Proof.Machine

/-- The row of R103 for the four bit operations. RUNNING is "not reachable" there: the step raises
`INTERNAL_STATE` (log 10). -/
def acceptBitOp (cop : ClientOp) (op : EngOp) (a : Word) (b : BitIndex) (v : Bool) (s : State) : State :=
  match seqPhase s with
  | .preInit => raiseRefuse .notInitialised s
  | .running => raiseFault .internalState s
  | .stable =>
    match operandCheck s.cfg a b with
    | some r => raiseRefuse r s
    | none => issue .client op a b v { s with clientBusy := true, clientOp := some cop }

/-- `RDBIT a, b` (R108). -/
def execRdbit (a : Word) (b : BitIndex) (s : State) : Host.Outcome State Fault Refusal :=
  .next (acceptBitOp .rdbit .rd a b false s)

/-- `SETBIT a, b` (R109). -/
def execSetbit (a : Word) (b : BitIndex) (s : State) : Host.Outcome State Fault Refusal :=
  .next (acceptBitOp .setbit .set a b false s)

/-- `CLRBIT a, b` (R110). -/
def execClrbit (a : Word) (b : BitIndex) (s : State) : Host.Outcome State Fault Refusal :=
  .next (acceptBitOp .clrbit .clr a b false s)

/-- `WRBIT a, b, v` (R111). -/
def execWrbit (a : Word) (b : BitIndex) (v : Bool) (s : State) : Host.Outcome State Fault Refusal :=
  .next (acceptBitOp .wrbit .wr a b v s)

end Sys2Proof.Machine
end

