-- ==== Sys2Proof/Machine/Engine.lean ====
section
/-! DEFINITION. The phase steps of the Bit-Access Engine (`40_bit_access.md` R106): one bus transaction each. -/

namespace Sys2Proof.Machine

/-- `P_A_WRITE`: `MemWrite(eng_alias, 4, eng_wdata)`, complete. -/
def phaseAWrite (s : State) : State :=
  match busWrite s.engAlias s.engWdata s with
  | .ok t => complete t
  | .error f => raiseFault f s

/-- `P_A_READ`: `eng_result <- MemRead(eng_alias, 4)[0]`, complete. -/
def phaseARead (s : State) : State :=
  match busRead s.engAlias s with
  | .ok (r, t) => complete { t with engResult := r.getLsbD 0 }
  | .error f => raiseFault f s

/-- `P_D_READ`: `eng_result <- (MemRead(eng_addr, 4) >> eng_bit)[0]`, complete. -/
def phaseDRead (s : State) : State :=
  match busRead s.engAddr s with
  | .ok (w, t) => complete { t with engResult := bitOf w s.engBit }
  | .error f => raiseFault f s

/-- `P_D_CLR_R`: `eng_tmp <- MemRead(eng_addr, 4)`. -/
def phaseDClrR (s : State) : State :=
  match busRead s.engAddr s with
  | .ok (w, t) => { t with engTmp := w, engPhase := .dClrW }
  | .error f => raiseFault f s

/-- `P_D_CLR_W`: `MemWrite(eng_addr, 4, eng_tmp & ~m)`; then the set half of a `WR` of 1, else complete. -/
def phaseDClrW (s : State) : State :=
  match busWrite s.engAddr (clearBitIn s.engTmp s.engBit) s with
  | .ok t => if s.engOp = .wr ∧ s.engVal = true then { t with engPhase := .dSetR } else complete t
  | .error f => raiseFault f s

/-- `P_D_SET_R`: `eng_tmp <- MemRead(eng_addr, 4)`, a fresh read (R111). -/
def phaseDSetR (s : State) : State :=
  match busRead s.engAddr s with
  | .ok (w, t) => { t with engTmp := w, engPhase := .dSetW }
  | .error f => raiseFault f s

/-- `P_D_SET_W`: `MemWrite(eng_addr, 4, eng_tmp | m)`, complete. -/
def phaseDSetW (s : State) : State :=
  match busWrite s.engAddr (setBitIn s.engTmp s.engBit) s with
  | .ok t => complete t
  | .error f => raiseFault f s

/-- The step of the phase the engine is in (R106). -/
def engineStep (s : State) : State :=
  match s.engPhase with
  | .idle => s
  | .aWrite => phaseAWrite s
  | .aRead => phaseARead s
  | .dRead => phaseDRead s
  | .dClrR => phaseDClrR s
  | .dClrW => phaseDClrW s
  | .dSetR => phaseDSetR s
  | .dSetW => phaseDSetW s

/-- The operation in flight suits its phase and its path: the phase is one that R105 and R106 give `eng_op` and
`eng_val` on the path of `eng_addr`, and on the alias path `eng_alias` and `eng_wdata` are what its issue computed. -/
def phaseFits (s : State) : Bool :=
  match s.engPhase with
  | .idle => true
  | .aWrite =>
    inWindow s.cfg s.engAddr && s.engAlias == aliasAddr s.cfg s.engAddr s.engBit && s.engOp != .rd
      && s.engWdata == issueWdata s.engOp s.engVal
  | .aRead =>
    inWindow s.cfg s.engAddr && s.engAlias == aliasAddr s.cfg s.engAddr s.engBit && s.engOp == .rd
  | .dRead => !inWindow s.cfg s.engAddr && s.engOp == .rd
  | .dClrR => !inWindow s.cfg s.engAddr && (s.engOp == .clr || s.engOp == .wr)
  | .dClrW => !inWindow s.cfg s.engAddr && (s.engOp == .clr || s.engOp == .wr)
  | .dSetR => !inWindow s.cfg s.engAddr && (s.engOp == .set || (s.engOp == .wr && s.engVal))
  | .dSetW => !inWindow s.cfg s.engAddr && (s.engOp == .set || (s.engOp == .wr && s.engVal))

end Sys2Proof.Machine
end

