-- ==== Sys2Proof/Machine/Sequencer.lean ====
section
/-! DEFINITION. The Clock Bring-up Sequencer (`41_clock_sequencer.md` R140 to R165): the state table of R141, the two
micro-operations (R145, R146), the settle tick (R151), the record (R161) and the entry to `S_STABLE` (R164). -/

namespace Sys2Proof.Machine

/-- The code of a CBS state (R141). -/
def seqCode : SeqState → BitVec 6
  | .idle => 0x00 | .oscPwrup => 0x01 | .oscCfg => 0x02 | .oscSettle => 0x03
  | .pllsrcWr => 0x04 | .pllsrcHs1 => 0x05 | .pllsrcHs0 => 0x06 | .pllsrcHs1b => 0x07 | .pllsrcAck => 0x08
  | .pllPwrup => 0x09 | .pllCfg => 0x0A | .pllLock => 0x0B
  | .mainWr => 0x0C | .mainHs1 => 0x0D | .mainHs0 => 0x0E | .mainHs1b => 0x0F | .mainAck => 0x10
  | .divWr => 0x11 | .record => 0x12
  | .usbsrcWr => 0x13 | .usbsrcHs1 => 0x14 | .usbsrcHs0 => 0x15 | .usbsrcHs1b => 0x16 | .usbsrcAck => 0x17
  | .usbPwrup => 0x18 | .usbpllCfg => 0x19 | .usbpllLock => 0x1A
  | .usbselWr => 0x1B | .usbselHs1 => 0x1C | .usbselHs0 => 0x1D | .usbselHs1b => 0x1E | .usbselAck => 0x1F
  | .stable => 0x20

/-- The CBS state of a code; none for the unused codes 0x21 to 0x3F (R141, R40). -/
def seqOfCode (c : BitVec 6) : Option SeqState :=
  match c.toNat with
  | 0x00 => some .idle | 0x01 => some .oscPwrup | 0x02 => some .oscCfg | 0x03 => some .oscSettle
  | 0x04 => some .pllsrcWr | 0x05 => some .pllsrcHs1 | 0x06 => some .pllsrcHs0 | 0x07 => some .pllsrcHs1b
  | 0x08 => some .pllsrcAck
  | 0x09 => some .pllPwrup | 0x0A => some .pllCfg | 0x0B => some .pllLock
  | 0x0C => some .mainWr | 0x0D => some .mainHs1 | 0x0E => some .mainHs0 | 0x0F => some .mainHs1b
  | 0x10 => some .mainAck
  | 0x11 => some .divWr | 0x12 => some .record
  | 0x13 => some .usbsrcWr | 0x14 => some .usbsrcHs1 | 0x15 => some .usbsrcHs0 | 0x16 => some .usbsrcHs1b
  | 0x17 => some .usbsrcAck
  | 0x18 => some .usbPwrup | 0x19 => some .usbpllCfg | 0x1A => some .usbpllLock
  | 0x1B => some .usbselWr | 0x1C => some .usbselHs1 | 0x1D => some .usbselHs0 | 0x1E => some .usbselHs1b
  | 0x1F => some .usbselAck
  | 0x20 => some .stable
  | _ => none

/-- The action column of R141. -/
def seqAction (c : Config) : SeqState → SeqAction
  | .idle => .rest
  | .oscPwrup => .eng .clr (regAt c c.map.pdRunCfg) c.sysOscPdBit
  | .oscCfg => .word (regAt c c.map.sysOscCtrl) (oscCtrlValue c)
  | .oscSettle => .settle
  | .pllsrcWr => .word (regAt c c.map.sysPllClkSel) (BitVec.ofNat 32 c.pllSrc)
  | .pllsrcHs1 => .word (uenAddr c .pll) (uenWord c)
  | .pllsrcHs0 => .word (uenAddr c .pll) 0
  | .pllsrcHs1b => .word (uenAddr c .pll) (uenWord c)
  | .pllsrcAck => .eng .rd (ackLoc c .pll).addr (ackLoc c .pll).bit
  | .pllPwrup => .eng .clr (regAt c c.map.pdRunCfg) c.sysPllPdBit
  | .pllCfg => .word (regAt c c.map.sysPllCtrl) (BitVec.ofNat 32 c.pllCtrl)
  | .pllLock => .eng .rd (regAt c c.map.sysPllStat) c.lockBit
  | .mainWr => .word (regAt c c.map.mainClkSel) (BitVec.ofNat 32 c.mainSel)
  | .mainHs1 => .word (uenAddr c .main) (uenWord c)
  | .mainHs0 => .word (uenAddr c .main) 0
  | .mainHs1b => .word (uenAddr c .main) (uenWord c)
  | .mainAck => .eng .rd (ackLoc c .main).addr (ackLoc c .main).bit
  | .divWr => .word (regAt c c.map.sysAhbClkDiv) (BitVec.ofNat 32 c.busDiv)
  | .record => .record
  | .usbsrcWr => .word (regAt c c.map.usbPllClkSel) (BitVec.ofNat 32 c.usbPllSrc)
  | .usbsrcHs1 => .word (uenAddr c .usbPll) (uenWord c)
  | .usbsrcHs0 => .word (uenAddr c .usbPll) 0
  | .usbsrcHs1b => .word (uenAddr c .usbPll) (uenWord c)
  | .usbsrcAck => .eng .rd (ackLoc c .usbPll).addr (ackLoc c .usbPll).bit
  | .usbPwrup => .eng .clr (regAt c c.map.pdRunCfg) c.usbPllPdBit
  | .usbpllCfg => .word (regAt c c.map.usbPllCtrl) (BitVec.ofNat 32 c.usbPllCtrl)
  | .usbpllLock => .eng .rd (regAt c c.map.usbPllStat) c.lockBit
  | .usbselWr => .word (regAt c c.map.usbClkSel) (BitVec.ofNat 32 c.usbSel)
  | .usbselHs1 => .word (uenAddr c .usb) (uenWord c)
  | .usbselHs0 => .word (uenAddr c .usb) 0
  | .usbselHs1b => .word (uenAddr c .usb) (uenWord c)
  | .usbselAck => .eng .rd (ackLoc c .usb).addr (ackLoc c .usb).bit
  | .stable => .rest

/-- The successor column of R141, for the bit the state's engine operation read (a state that reads no bit ignores
it). -/
def seqNext (c : Config) (bit : Bool) : SeqState → SeqState
  | .idle => .oscPwrup
  | .oscPwrup => .oscCfg
  | .oscCfg => .oscSettle
  | .oscSettle => .pllsrcWr
  | .pllsrcWr => .pllsrcHs1
  | .pllsrcHs1 => .pllsrcHs0
  | .pllsrcHs0 => .pllsrcHs1b
  | .pllsrcHs1b => .pllsrcAck
  | .pllsrcAck => if bit then .pllPwrup else .pllsrcAck
  | .pllPwrup => .pllCfg
  | .pllCfg => .pllLock
  | .pllLock => if bit then .mainWr else .pllLock
  | .mainWr => .mainHs1
  | .mainHs1 => .mainHs0
  | .mainHs0 => .mainHs1b
  | .mainHs1b => .mainAck
  | .mainAck => if bit then .divWr else .mainAck
  | .divWr => .record
  | .record => if c.usbEnable then .usbsrcWr else .stable
  | .usbsrcWr => .usbsrcHs1
  | .usbsrcHs1 => .usbsrcHs0
  | .usbsrcHs0 => .usbsrcHs1b
  | .usbsrcHs1b => .usbsrcAck
  | .usbsrcAck => if bit then .usbPwrup else .usbsrcAck
  | .usbPwrup => .usbpllCfg
  | .usbpllCfg => .usbpllLock
  | .usbpllLock => if bit then .usbselWr else .usbpllLock
  | .usbselWr => .usbselHs1
  | .usbselHs1 => .usbselHs0
  | .usbselHs0 => .usbselHs1b
  | .usbselHs1b => .usbselAck
  | .usbselAck => if bit then .stable else .usbselAck
  | .stable => .stable

/-- `seq_state <- q`; the step that enters `S_STABLE` also responds 0 to the outstanding `INITCLK` (R164). -/
def enter (q : SeqState) (s : State) : State :=
  match q with
  | .stable => respond 0 { s with seqState := seqCode .stable }
  | _ => { s with seqState := seqCode q }

/-- `ENG(op, a, b)` while the engine is idle: issue, or consume the result (R145). -/
def seqEng (q : SeqState) (op : EngOp) (a : Word) (b : BitIndex) (s : State) : State :=
  if s.seqIssued = false then { issue .seq op a b false s with seqIssued := true }
  else if s.engDone then
    enter (seqNext s.cfg s.engResult q) { s with engDone := false, seqIssued := false }
  else raiseFault .internalState s

/-- `WORD(a, v)`: one word write, and the successor, in one step; leaving `S_OSC_CFG` sets `settle_cnt` to 0
(R146, R149). -/
def seqWord (q : SeqState) (a v : Word) (s : State) : State :=
  match busWrite a v s with
  | .ok t => enter (seqNext s.cfg false q) { t with settleCnt := if q = .oscCfg then 0 else t.settleCnt }
  | .error f => raiseFault f s

/-- One settle tick (R151). -/
def seqSettle (q : SeqState) (s : State) : State :=
  if s.settleCnt = s.cfg.oscSettleIter then enter (seqNext s.cfg false q) s
  else { s with settleCnt := s.settleCnt + 1 }

/-- `S_RECORD`: `clock_hz <- FREQ`, no bus transaction (R161). -/
def seqRecord (q : SeqState) (s : State) : State :=
  enter (seqNext s.cfg false q) { s with clockHz := some (BitVec.ofNat 32 (freqHz s.cfg)) }

/-- The CBS's step while the engine is idle (R140, R141). -/
def seqStep (s : State) : State :=
  match seqOfCode s.seqState with
  | none => raiseFault .internalState s
  | some q =>
    match seqAction s.cfg q with
    | .rest => s
    | .eng op a b => seqEng q op a b s
    | .word a v => seqWord q a v s
    | .settle => seqSettle q s
    | .record => seqRecord q s

/-- The state's action is an engine operation. -/
def isEngState (c : Config) (q : SeqState) : Bool :=
  match seqAction c q with
  | .eng _ _ _ => true
  | _ => false

/-- The operation in flight is the one the state's action issues: `Issue(SEQ, op, a, b, 0)` (R141, R145). -/
def isOwnOperation (q : SeqState) (s : State) : Bool :=
  seqAction s.cfg q == .eng s.engOp s.engAddr s.engBit && !s.engVal

/-- The sequencer, the engine and the client registers agree: the check before every step (R40, R206; log 9). An
operation in flight is in a phase of its own. In PRE-INIT nothing is in flight; in RUNNING the client waits, and a state
that uses the engine has issued nothing, or has its own operation in flight, or has its result to consume; in STABLE the
only thing in flight is the client's. -/
def blockConsistent (s : State) : Bool :=
  match seqOfCode s.seqState with
  | none => false
  | some .idle => s.engPhase == .idle && !s.seqIssued && !s.engDone && !s.clientBusy
  | some .stable =>
    !s.seqIssued && !s.engDone
      && (if s.engPhase = .idle then !s.clientBusy else s.clientBusy && s.engOwner == .client && phaseFits s)
  | some q =>
    s.clientBusy
      && (if s.engPhase = .idle then s.seqIssued == s.engDone && (isEngState s.cfg q || !s.seqIssued)
          else s.engOwner == .seq && s.seqIssued && !s.engDone && isOwnOperation q s && phaseFits s)

end Sys2Proof.Machine
end

