-- ==== Sys2Proof/Machine/ClockOps.lean ====
section
/-! DEFINITION. The accepting step of `INITCLK` and `GETFREQ` (`41_clock_sequencer.md` R143, R144; gating
`40_bit_access.md` R103). -/

namespace Sys2Proof.Machine

/-- `INITCLK`: starts the CBS in PRE-INIT, with no response now (R143); refused in STABLE. In RUNNING it cannot be
accepted (R103): `INTERNAL_STATE` (log 10). -/
def execInitclk (s : State) : Host.Outcome State Fault Refusal :=
  match seqPhase s with
  | .preInit => .next { s with clientBusy := true, clientOp := some .initclk, seqState := seqCode .oscPwrup }
  | .running => .next (raiseFault .internalState s)
  | .stable => .next (raiseRefuse .initTwice s)

/-- `GETFREQ`: `respond(clock_hz)` in STABLE, where ClockState holds a value (R144); refused in PRE-INIT. A STABLE
state without one is reached by no run: `INTERNAL_STATE` (log 10). -/
def execGetfreq (s : State) : Host.Outcome State Fault Refusal :=
  match seqPhase s with
  | .preInit => .next (raiseRefuse .notInitialised s)
  | .running => .next (raiseFault .internalState s)
  | .stable =>
    match s.clockHz with
    | some f => .next (respond f s)
    | none => .next (raiseFault .internalState s)

end Sys2Proof.Machine
end

