-- ==== Sys2Proof/Machine/Reserved.lean ====
section
/-! DEFINITION. The two reserved operations (`30_encoding.md` R86): refused with `RESERVED_OP` in every state, before
the gating of R103 (`60_exceptions.md` R206), with no effect on the bus; the refusal is recorded in the sticky mark
(R12, R201; log 1). -/

namespace Sys2Proof.Machine

/-- `OP = 110` (R86), whatever the other bits `_w` of the word. -/
def execReservedOp110 (_w : ReqWord) (s : State) : Host.Outcome State Fault Refusal :=
  .next (raiseRefuse .reservedOp s)

/-- `OP = 111` (R86), whatever the other bits `_w` of the word. -/
def execReservedOp111 (_w : ReqWord) (s : State) : Host.Outcome State Fault Refusal :=
  .next (raiseRefuse .reservedOp s)

end Sys2Proof.Machine
end

