-- ==== Sys2Proof/Machine/Dispatch.lean ====
section
/-! DEFINITION. The accepting step of a decoded request (`40_bit_access.md` R103): one arm per operation. -/

namespace Sys2Proof.Machine

def exec (i : Instr) (s : State) : Host.Outcome State Fault Refusal :=
  match i with
  | .rdbit a b => Sys2Proof.Machine.execRdbit a b s
  | .setbit a b => Sys2Proof.Machine.execSetbit a b s
  | .clrbit a b => Sys2Proof.Machine.execClrbit a b s
  | .wrbit a b v => Sys2Proof.Machine.execWrbit a b v s
  | .initclk => Sys2Proof.Machine.execInitclk s
  | .getfreq => Sys2Proof.Machine.execGetfreq s
  | .reservedOp110 w => Sys2Proof.Machine.execReservedOp110 w s
  | .reservedOp111 w => Sys2Proof.Machine.execReservedOp111 w s

end Sys2Proof.Machine
end

