-- ==== Sys2Proof/Machine/Control.lean ====
section
/-! DEFINITION. One step of THE BLOCK in the order of `60_exceptions.md` R206: the marks, the internal check, the
engine's phase, the CBS's state, the acceptance of a request. -/

namespace Sys2Proof.Machine

/-- The accepting step: the word leaves the port, is decoded (R89), and its operation runs (R103). -/
def accept (w : ReqWord) (s : State) : Host.Outcome State Fault Refusal :=
  match decode w with
  | .ok i => exec i { s with reqs := s.reqs.tail }
  | .error .reservedBits => .next (raiseRefuse .reservedBits { s with reqs := s.reqs.tail })

/-- The step with the engine and the CBS at rest: a presented request is accepted, or holds (R103); with none
presented THE BLOCK waits (R12 `hold`; log 11). -/
def clientStep (s : State) : Host.Outcome State Fault Refusal :=
  match s.reqs with
  | w :: _ => if reqReady s then accept w s else .next s
  | [] => .next s

/-- A step without reset (R206, R145, R103). -/
def blockStep (s : State) : Host.Outcome State Fault Refusal :=
  match s.refused, s.fault with
  | some r, _ => .refused (.reason r)
  | none, some f => .fault f
  | none, none =>
    if blockConsistent s = false then .next (raiseFault .internalState s)
    else if s.engPhase ≠ .idle then .next (engineStep s)
    else if seqPhase s = .running then .next (seqStep s)
    else clientStep s

/-- One step of the machine: an ill-formed configuration has no run (R9, R206); then what the environment does before
the step (R63); then the reset step (R230), or THE BLOCK's. The reset step comes before the check of the marks and before
that of `INTERNAL_STATE` (R206): DEDUCED for the marks, DESIGN CHOICE for disagreeing registers (log 14). -/
def machineStep (s : State) : Host.Outcome State Fault Refusal :=
  if configWf s.cfg = false then .refused (.reason .configIllformed)
  else if resetRaised s then .next (blockReset (absorb s))
  else blockStep (absorb s)

/-- The state with one request word on the port, nothing else waiting and the environment quiet, so that a machine at
rest accepts it on its next step (R103; log 19). -/
def present (w : ReqWord) (s : State) : State := { s with reqs := [w], stimuli := [] }

end Sys2Proof.Machine
end

