-- ==== Sys2Proof/Machine/Step.lean ====
section
/-! DEFINITION. The step function, and presenting a request word. -/

namespace Sys2Proof.Machine

/-- One step (`00_scope.md` R5, R13). -/
def step (s : State) : Host.Outcome State Fault Refusal := machineStep s

/-- The state in which the client presents the request whose bits are `w` (of which the table gives `nbits`): THE
BLOCK's next step, where it is at rest, accepts exactly it (R103; log 19). -/
def State.withFetchWord (s : State) (nbits w : Nat) : State := present (BitVec.ofNat 48 (w % 2 ^ nbits)) s

end Sys2Proof.Machine
end

