-- ==== Sys2Proof/Safety.lean ====
section
/-! DEFINITION. The terms statements use: runs of several steps, states at rest, what a safe configuration adds, and the
invariant of THE BLOCK. -/

namespace Sys2Proof.Machine

/-- `k` steps, stopping at the first fault or refusal. -/
def runSteps : Nat → State → Host.Outcome State Fault Refusal
  | 0, s => .next s
  | k + 1, s =>
    match step s with
    | .next t => runSteps k t
    | .fault f => .fault f
    | .refused r => .refused r

/-- Neither mark is set (R29). -/
abbrev Unmarked (s : State) : Prop := s.refused = none ∧ s.fault = none

/-- THE BLOCK runs a well-formed configuration, unmarked, and nothing comes from outside. -/
abbrev Undisturbed (s : State) : Prop := configWf s.cfg = true ∧ Unmarked s ∧ s.stimuli = []

/-- Nothing is in flight (R103): the next step accepts a presented request. -/
abbrev AtRest (s : State) : Prop :=
  s.engPhase = .idle ∧ s.seqIssued = false ∧ s.engDone = false ∧ s.clientBusy = false

/-- Undisturbed and at rest in STABLE (R103). -/
abbrev ReadyStable (s : State) : Prop := Undisturbed s ∧ AtRest s ∧ s.seqState = 0x20#6

/-- Undisturbed and at rest in PRE-INIT (R103). -/
abbrev ReadyPreInit (s : State) : Prop := Undisturbed s ∧ AtRest s ∧ s.seqState = 0x00#6

/-- Undisturbed in the CBS state of a code, about to begin its action, with the client waiting (R145). -/
abbrev SeqAt (code : BitVec 6) (s : State) : Prop :=
  Undisturbed s ∧ s.engPhase = .idle ∧ s.seqIssued = false ∧ s.engDone = false ∧ s.clientBusy = true
    ∧ s.seqState = code

/-- `HIGH_MASK` and `LOW_MASK` share no bit. R102's proof needs it and WF2 does not state it (log 18). -/
abbrev MasksDisjoint (c : Config) : Prop := c.highMask &&& c.lowMask = 0#32

/-- A client's bit operation on `(a, b)` passes the operand checks (R104). -/
abbrev OperandsPass (c : Config) (a : Word) (b : BitIndex) : Prop :=
  a.extractLsb' 0 2 = 0#2 ∧ b.toNat < regWidth c a

/-- The alias path of a word: in the window, mapped, under masks that share no bit. -/
abbrev OnAliasPath (c : Config) (a : Word) : Prop :=
  inWindow c a = true ∧ isMapped c a = true ∧ MasksDisjoint c

/-- The word a transaction at `a` is about: the decoded word for an alias address (R52, R53, R61). -/
def targetWord (c : Config) (a : Word) : Word := if inAliasWindow c a then (aliasDecode c a).1 else a

/-- The direct path of a word: outside the window, and a transaction at it answered. The word may be plain, volatile, or
an alias word given as a RegisterAddress (R114). -/
abbrev OnDirectPath (c : Config) (a : Word) : Prop :=
  inWindow c a = false ∧ isMapped c (targetWord c a) = true

/-- A word whose reads answer what memory holds: neither volatile nor an alias word (R52, R113). -/
abbrev PlainWord (c : Config) (a : Word) : Prop := inAliasWindow c a = false ∧ isVolatile c a = false

/-- The engine reaches a word of the bring-up on one of the two paths; on the alias path under masks that share no bit
(log 18), on the direct path where the transaction is answered. -/
abbrev EngineReaches (c : Config) (a : Word) : Prop :=
  (inWindow c a = true ∧ MasksDisjoint c) ∨ OnDirectPath c a

/-- The word the environment answers `MemRead(a, 4)` with (R52): for an alias word a draw whose bit 0 is the aliased bit,
itself a draw for a volatile word; for a volatile word a draw; else what memory holds. -/
def answer (s : State) (a : Word) : Word :=
  if inAliasWindow s.cfg a then
    let w := (aliasDecode s.cfg a).1
    let bit := if isVolatile s.cfg w then (nextDraw s).getLsbD 0
      else (memWord s w).getLsbD (aliasDecode s.cfg a).2.toNat
    (nextDraw s &&& 0xFFFFFFFE#32) ||| (if bit then 1#32 else 0#32)
  else if isVolatile s.cfg a then nextDraw s
  else memWord s a

/-- How many draws that answer takes (R52; log 5, log 15). -/
def drawsOf (c : Config) (a : Word) : Nat := if inAliasWindow c a = true ∨ isVolatile c a = true then 1 else 0

/-- The state after `n` draws are taken. -/
def skipDraws (n : Nat) (s : State) : State := { s with draws := s.draws.drop n, drawCount := s.drawCount + n }

/-- The address the engine puts on the bus for `(a, b)` (R105, R106). -/
def busAddress (c : Config) (a : Word) (b : BitIndex) : Word := if inWindow c a then aliasAddr c a b else a

/-- The bit an engine `RD` of `(a, b)` returns (R106, R108): on the alias path the word's bit, a draw for a volatile word;
on the direct path bit `b` of the word answered. -/
def engineBit (s : State) (a : Word) (b : BitIndex) : Bool :=
  if inWindow s.cfg a then
    if isVolatile s.cfg a then (nextDraw s).getLsbD 0 else (memWord s a).getLsbD b.toNat
  else (answer s a).getLsbD b.toNat

/-- The byte address is none of the four of the word at `a`. -/
abbrev OutsideWord (a : Word) (x : Nat) : Prop :=
  x ≠ byteAt a 0 ∧ x ≠ byteAt a 1 ∧ x ≠ byteAt a 2 ∧ x ≠ byteAt a 3

/-- Every byte outside the word at `a` reads in `t` as in `s`. -/
def SameOutside (a : Word) (s t : State) : Prop := ∀ x, OutsideWord a x → memByte t x = memByte s x

/-- The word at `a` has bit `b` made `v` and every other bit as before, and so has every byte outside it. -/
def OneBitChanged (a : Word) (b : BitIndex) (v : Bool) (s t : State) : Prop :=
  (∀ j : BitIndex, bitOf (memWord t a) j = if j = b then v else bitOf (memWord s a) j) ∧ SameOutside a s t

/-- What `MemWrite(a, 4, v)` leaves in memory (R53): for an alias word its bit of the decoded word is `v[0]`, else the word
is `v`; nothing else changes. -/
def WordWritten (a v : Word) (s t : State) : Prop :=
  if inAliasWindow s.cfg a then
    OneBitChanged (aliasDecode s.cfg a).1 (aliasDecode s.cfg a).2 (v.getLsbD 0) s t
  else memWord t a = v ∧ SameOutside a s t

/-- The byte is of no word that other agents may change (R63; log 20). -/
abbrev OutsideEnvWords (c : Config) (x : Nat) : Prop :=
  ∀ w, isEnvWritable c w = true → wordAligned w = true → OutsideWord w x

/-- An event is a bus transaction (R51). -/
def isBusEvent : Event → Bool
  | .busR _ _ => true
  | .busW _ _ => true
  | .resp _ => false

/-- No clock-control register and no acknowledge word lies in the alias window. R143 and R202 need it, and WF5 does not
state it (log 18). -/
def clockWordsPlain (c : Config) : Bool :=
  (clockRegs c).all (fun a => !inAliasWindow c a) && (ackLocs c).all (fun k => !inAliasWindow c k.addr)

/-- The client operation that issues an engine operation (R105). -/
def clientOpOf : EngOp → ClientOp
  | .rd => .rdbit
  | .set => .setbit
  | .clr => .clrbit
  | .wr => .wrbit

/-- A client's operation in flight is the one its request asked, its operands checked (R103 to R105). -/
def clientFits (s : State) : Bool :=
  if s.engPhase = .idle ∨ s.engOwner = .seq then true
  else s.clientOp == some (clientOpOf s.engOp) && (operandCheck s.cfg s.engAddr s.engBit).isNone

/-- While the CBS runs, the request awaiting its response is `INITCLK` (R28, R103). -/
def runnerFits (s : State) : Bool :=
  if s.seqState = 0#6 ∨ s.seqState = 0x20#6 then true else s.clientOp == some .initclk

/-- ClockState holds no value up to `S_RECORD` and the computed frequency after it (R25, R161, R162). -/
def clockFits (s : State) : Bool :=
  if s.seqState ≤ 0x12#6 then s.clockHz == none else s.clockHz == some (BitVec.ofNat 32 (freqHz s.cfg))

/-- The invariant of THE BLOCK: memory in canonical form, the registers in agreement (R40), a client's operation in flight
the one it asked, ClockState as the CBS's progress says. -/
def invariant (s : State) : Bool :=
  s.mem.wf s.cfg && blockConsistent s && clientFits s && runnerFits s && clockFits s

/-- What a bit operation writes: its address, its bit and the value the bit takes (R109 to R111). -/
def writeTarget : Instr → Option (Word × BitIndex × Bool)
  | .rdbit _ _ => none
  | .setbit a b => some (a, b, true)
  | .clrbit a b => some (a, b, false)
  | .wrbit a b v => some (a, b, v)
  | .initclk => none
  | .getfreq => none
  | .reservedOp110 _ => none
  | .reservedOp111 _ => none

/-- How many steps a bit write takes, the accepting step among them (R112): two on the alias path; on the direct path
five for a `WRBIT` of 1, three else. -/
def writeSteps (c : Config) (i : Instr) : Nat :=
  match writeTarget i with
  | none => 0
  | some (a, _, v) =>
    if inWindow c a then 2
    else
      match i with
      | .wrbit _ _ _ => if v then 5 else 3
      | _ => 3

/-- The rows of R141 whose action is `WORD(a, v)`: code, address, word, successor. The word of `S_OSC_CFG` is R148's
formula. -/
def wordRows (c : Config) : List (BitVec 6 × Word × Word × BitVec 6) :=
  let r := fun offset => c.map.base + offset
  let one := 1#32 <<< c.uenBit.toNat
  let freqRange := if c.fXtal > c.xtalRangeThreshold then 1#32 else 0#32
  [(0x02, r c.map.sysOscCtrl, (freqRange <<< 1) ||| BitVec.ofNat 32 c.oscBypass, 0x03),
   (0x04, r c.map.sysPllClkSel, BitVec.ofNat 32 c.pllSrc, 0x05),
   (0x05, r c.map.sysPllClkUen, one, 0x06), (0x06, r c.map.sysPllClkUen, 0, 0x07),
   (0x07, r c.map.sysPllClkUen, one, 0x08),
   (0x0A, r c.map.sysPllCtrl, BitVec.ofNat 32 c.pllCtrl, 0x0B),
   (0x0C, r c.map.mainClkSel, BitVec.ofNat 32 c.mainSel, 0x0D),
   (0x0D, r c.map.mainClkUen, one, 0x0E), (0x0E, r c.map.mainClkUen, 0, 0x0F), (0x0F, r c.map.mainClkUen, one, 0x10),
   (0x11, r c.map.sysAhbClkDiv, BitVec.ofNat 32 c.busDiv, 0x12),
   (0x13, r c.map.usbPllClkSel, BitVec.ofNat 32 c.usbPllSrc, 0x14),
   (0x14, r c.map.usbPllClkUen, one, 0x15), (0x15, r c.map.usbPllClkUen, 0, 0x16),
   (0x16, r c.map.usbPllClkUen, one, 0x17),
   (0x19, r c.map.usbPllCtrl, BitVec.ofNat 32 c.usbPllCtrl, 0x1A),
   (0x1B, r c.map.usbClkSel, BitVec.ofNat 32 c.usbSel, 0x1C),
   (0x1C, r c.map.usbClkUen, one, 0x1D), (0x1D, r c.map.usbClkUen, 0, 0x1E), (0x1E, r c.map.usbClkUen, one, 0x1F)]

/-- The rows of R141 that clear a power-down bit of `PDRUNCFG`: code, bit, successor. -/
def powerRows (c : Config) : List (BitVec 6 × BitIndex × BitVec 6) :=
  [(0x01, c.sysOscPdBit, 0x02), (0x09, c.sysPllPdBit, 0x0A), (0x18, c.usbPllPdBit, 0x19)]

/-- The rows of R141 that poll a bit: code, address, bit, successor when it reads 1. -/
def pollRows (c : Config) : List (BitVec 6 × Word × BitIndex × BitVec 6) :=
  [(0x08, c.ackPll.addr, c.ackPll.bit, 0x09), (0x0B, c.map.base + c.map.sysPllStat, c.lockBit, 0x0C),
   (0x10, c.ackMain.addr, c.ackMain.bit, 0x11), (0x17, c.ackUsbPll.addr, c.ackUsbPll.bit, 0x18),
   (0x1A, c.map.base + c.map.usbPllStat, c.lockBit, 0x1B), (0x1F, c.ackUsb.addr, c.ackUsb.bit, 0x20)]

/-- The four handshakes of R150: code of the first write, the update-enable register, its acknowledge, successor. -/
def handshakeRows (c : Config) : List (BitVec 6 × Word × AckLoc × BitVec 6) :=
  [(0x05, c.map.base + c.map.sysPllClkUen, c.ackPll, 0x09), (0x0D, c.map.base + c.map.mainClkUen, c.ackMain, 0x11),
   (0x14, c.map.base + c.map.usbPllClkUen, c.ackUsbPll, 0x18), (0x1C, c.map.base + c.map.usbClkUen, c.ackUsb, 0x20)]

end Sys2Proof.Machine
end

