-- ==== Sys2Proof/Certificates/Slice0/Obligations.lean ====
section
/-! DEFINITION. The statements about THE BLOCK, each with the rules of `spec/` it comes from. Where a statement has a
premise no rule states, its docstring says so and names the log entry. -/

open Sys2Proof Sys2Proof.Machine

/-! ### Encoding -/

/-- R80 to R82, R86: every operation decodes back from its own word, for every operand value. -/
def Obligations.DecodeOfEncodeIsTheOperation : Prop :=
  ∀ i : Instr, i.wf = true → decode (encode i) = .ok i

/-- R80, R89: a word that decodes is the word of the operation it decodes to. -/
def Obligations.EncodeOfDecodeIsTheWord : Prop :=
  ∀ (w : ReqWord) (i : Instr), decode w = .ok i → i.wf = true ∧ encode i = w

/-- R82, R87, R89: the decoder rejects exactly the words with an unreserved `OP` and a nonzero reserved or unused bit. -/
def Obligations.DecoderRejectsExactlyReservedBits : Prop :=
  ∀ w : ReqWord,
    decode w = .error .reservedBits ↔
      (w.extractLsb' 40 3 ≠ 6#3 ∧ w.extractLsb' 40 3 ≠ 7#3)
      ∧ (w.extractLsb' 38 2 ≠ 0#2 ∨ w.extractLsb' 43 5 ≠ 0#5
        ∨ (w.extractLsb' 40 3 < 3#3 ∧ w.getLsbD 37 = true)
        ∨ ((w.extractLsb' 40 3 = 4#3 ∨ w.extractLsb' 40 3 = 5#3) ∧ w.extractLsb' 0 38 ≠ 0#38))

/-- The opcode table's match and mask: a word fits a row exactly when it decodes to that row's operation, with the
operands of R80's fields. -/
def Obligations.OpcodeTableRowsDecode : Prop :=
  ∀ w : ReqWord,
    (w &&& 0xFFE000000000#48 = 0x000000000000#48 ↔
      decode w = .ok (.rdbit (w.extractLsb' 0 32) (w.extractLsb' 32 5)))
    ∧ (w &&& 0xFFE000000000#48 = 0x010000000000#48 ↔
      decode w = .ok (.setbit (w.extractLsb' 0 32) (w.extractLsb' 32 5)))
    ∧ (w &&& 0xFFE000000000#48 = 0x020000000000#48 ↔
      decode w = .ok (.clrbit (w.extractLsb' 0 32) (w.extractLsb' 32 5)))
    ∧ (w &&& 0xFFC000000000#48 = 0x030000000000#48 ↔
      decode w = .ok (.wrbit (w.extractLsb' 0 32) (w.extractLsb' 32 5) (w.getLsbD 37)))
    ∧ (w = 0x040000000000#48 ↔ decode w = .ok .initclk)
    ∧ (w = 0x050000000000#48 ↔ decode w = .ok .getfreq)
    ∧ (w &&& 0x070000000000#48 = 0x060000000000#48 ↔ decode w = .ok (.reservedOp110 w))
    ∧ (w &&& 0x070000000000#48 = 0x070000000000#48 ↔ decode w = .ok (.reservedOp111 w))

/-- R90's worked encodings and vectors V-E1 to V-E11 of `95_test_vectors.md`. For the words of V-E12 and V-E13 the vectors
say `Refuse(RESERVED_OP)`; that they decode to their reserved row, whose meaning is that refusal, is the model's form
(log 21). -/
def Obligations.WorkedEncodingsDecode : Prop :=
  decode 0x010540000000#48 = .ok (.setbit 0x40000000 5)
    ∧ decode 0x032350008000#48 = .ok (.wrbit 0x50008000 3 true)
    ∧ decode 0x040000000000#48 = .ok .initclk
    ∧ decode 0x050000000000#48 = .ok .getfreq
    ∧ decode 0x000540000000#48 = .ok (.rdbit 0x40000000 5)
    ∧ decode 0x020540000000#48 = .ok (.clrbit 0x40000000 5)
    ∧ decode 0x030540000000#48 = .ok (.wrbit 0x40000000 5 false)
    ∧ decode 0x011F50008000#48 = .ok (.setbit 0x50008000 31)
    ∧ decode 0x060000000000#48 = .ok (.reservedOp110 0x060000000000#48)
    ∧ decode 0x070000000003#48 = .ok (.reservedOp111 0x070000000003#48)

/-! ### The step -/

/-- R89, R103: at rest in PRE-INIT or STABLE, the step on which a word of a well-formed operation is on the port is that
operation's accepting step, the word gone from the port. -/
def Obligations.StepRunsTheDecodedOperation : Prop :=
  ∀ (s : State) (w : ReqWord) (rest : List ReqWord) (i : Instr),
    configWf s.cfg = true → resetRaised s = false → Unmarked s → blockConsistent (absorb s) = true
      → seqPhase s ≠ .running → reqReady (absorb s) = true → (absorb s).reqs = w :: rest
      → decode w = .ok i → i.wf = true
      → step s = exec i { absorb s with reqs := rest }

/-- R87: a word with an unreserved `OP` and a nonzero reserved bit, or a nonzero field its operation does not use, is
refused with `RESERVED_BITS`; nothing else changes, so there is no effect on the bus. That the refusal is a mark set in a
next state is the model's form (R12; log 1). -/
def Obligations.ReservedBitsAreRefused : Prop :=
  ∀ (s : State) (w : ReqWord) (rest : List ReqWord),
    (ReadyPreInit s ∨ ReadyStable s) → s.reqs = w :: rest
      → w.extractLsb' 40 3 ≠ 6#3 → w.extractLsb' 40 3 ≠ 7#3
      → (w.extractLsb' 38 2 ≠ 0#2 ∨ w.extractLsb' 43 5 ≠ 0#5
        ∨ (w.extractLsb' 40 3 < 3#3 ∧ w.getLsbD 37 = true)
        ∨ ((w.extractLsb' 40 3 = 4#3 ∨ w.extractLsb' 40 3 = 5#3) ∧ w.extractLsb' 0 38 ≠ 0#38))
      → step s = .next { s with rsp := none, reqs := rest, refused := some .reservedBits }

/-- R29, R206: with a mark set and no reset, THE BLOCK takes no step; the outcome it answers is the model's form (log 1). -/
def Obligations.MarkedBlockTakesNoStep : Prop :=
  ∀ s : State, configWf s.cfg = true → resetRaised s = false →
    (∀ r, s.refused = some r → step s = .refused (.reason r))
    ∧ (∀ f, s.refused = none → s.fault = some f → step s = .fault f)

/-- R29, R231: no step and no reset clears or changes a mark. -/
def Obligations.MarksAreNeverCleared : Prop :=
  ∀ s t : State, step s = .next t →
    (∀ r, s.refused = some r → t.refused = some r) ∧ (∀ f, s.fault = some f → t.fault = some f)

/-- R9: an ill-formed configuration has no run, whatever the state; that every step answers so is the model's form
(log 2). -/
def Obligations.IllformedConfigurationHasNoRun : Prop :=
  ∀ s : State, configWf s.cfg = false → step s = .refused (.reason .configIllformed)

/-- R9 WF2: the machine's closed check decides WF2 as the rule words it, over every word of the window (log 24). -/
def Obligations.WindowCheckDecidesTheRule : Prop :=
  ∀ c : Config, wf1 c = true → (wf2 c = true ↔ windowAgrees c)

/-- R103, R206: a request presented while something is in flight holds: it stays presented, and is neither decoded nor
refused. R234, R12 `hold`: with nothing in flight and nothing presented THE BLOCK starts nothing by itself, and the step
leaves the state as the environment made it; that such a step is a next state is the model's form (log 11). -/
def Obligations.PresentedRequestHoldsWhileBusy : Prop :=
  ∀ s : State, resetRaised s = false →
    (∀ t, (s.clientBusy = true ∨ s.engPhase ≠ .idle ∨ s.engDone = true) → step s = .next t →
      t.reqs = s.reqs ++ (stimulus s).req.toList ∧ t.refused = none ∧ t.clientOp = s.clientOp)
    ∧ (configWf s.cfg = true → Unmarked s → AtRest s → (s.seqState = 0x00#6 ∨ s.seqState = 0x20#6) →
      (absorb s).reqs = [] → step s = .next (absorb s))

/-- R7: no step writes the configuration. -/
def Obligations.NoStepWritesTheConfiguration : Prop :=
  ∀ s t : State, step s = .next t → t.cfg = s.cfg

/-- R5, R51: events are only added, at most one bus transaction and one response a step. -/
def Obligations.OneTransactionPerStep : Prop :=
  ∀ s t : State, step s = .next t →
    ∃ new, t.events = s.events ++ new ∧ (new.filter isBusEvent).length ≤ 1
      ∧ (new.filter (fun e => !isBusEvent e)).length ≤ 1

/-- R52, R59, R63: the environment changes, before a step, no byte but those of the words ENV_WRITABLE lists (at aligned
addresses, log 20), and the last word it writes to such a word is what the word then holds; beyond that, memory changes
only by a bus write of the step, which writes one word, or one bit of an alias word's target. That an alias write of any
word takes its bit 0 is the spec's general-knowledge reading (log 15). -/
def Obligations.MemoryChangesOnlyByBusWrites : Prop :=
  ∀ s : State,
    (∀ x, OutsideEnvWords s.cfg x → memByte (absorb s) x = memByte s x)
    ∧ (∀ ws w v, (stimulus s).writes = ws ++ [(w, v)] → isEnvWritable s.cfg w = true → wordAligned w = true →
        s.mem.wf s.cfg = true → memWord (absorb s) w = v)
    ∧ ∀ t, step s = .next t →
      t.mem = (absorb s).mem
      ∨ ∃ a v rest, t.events = s.events ++ Event.busW a v :: rest
          ∧ t.mem =
            (if inAliasWindow s.cfg a then
              writeWord s.cfg (absorb s).mem (aliasDecode s.cfg a).1
                (putBit (memWord (absorb s) (aliasDecode s.cfg a).1) (aliasDecode s.cfg a).2 (v.getLsbD 0))
            else writeWord s.cfg (absorb s).mem a v)

/-! ### The operations: the accepting step -/

/-- R103, R105, R108: `RDBIT` in STABLE is issued to the engine, on the path the region test chooses. Here and in the
three statements after it, that `eng_alias` and `eng_wdata` keep their values where R105 writes none is log 27's reading. -/
def Obligations.RdbitIsIssued : Prop :=
  ∀ (s : State) (a : Word) (b : BitIndex), s.seqState = 0x20#6 → OperandsPass s.cfg a b →
    exec (.rdbit a b) s = .next { s with
      clientBusy := true, clientOp := some .rdbit
      engOwner := .client, engOp := .rd, engAddr := a, engBit := b, engVal := false
      engAlias := if s.cfg.bbLo ≤ a ∧ a ≤ s.cfg.bbHi then
          (a &&& s.cfg.highMask) + s.cfg.aliasOffset + ((a &&& s.cfg.lowMask) <<< 5) + (b.setWidth 32 <<< 2)
        else s.engAlias
      engPhase := if s.cfg.bbLo ≤ a ∧ a ≤ s.cfg.bbHi then .aRead else .dRead }

/-- R103, R105, R109: `SETBIT` in STABLE is issued. -/
def Obligations.SetbitIsIssued : Prop :=
  ∀ (s : State) (a : Word) (b : BitIndex), s.seqState = 0x20#6 → OperandsPass s.cfg a b →
    exec (.setbit a b) s = .next { s with
      clientBusy := true, clientOp := some .setbit
      engOwner := .client, engOp := .set, engAddr := a, engBit := b, engVal := false
      engAlias := if s.cfg.bbLo ≤ a ∧ a ≤ s.cfg.bbHi then
          (a &&& s.cfg.highMask) + s.cfg.aliasOffset + ((a &&& s.cfg.lowMask) <<< 5) + (b.setWidth 32 <<< 2)
        else s.engAlias
      engWdata := if s.cfg.bbLo ≤ a ∧ a ≤ s.cfg.bbHi then 1 else s.engWdata
      engPhase := if s.cfg.bbLo ≤ a ∧ a ≤ s.cfg.bbHi then .aWrite else .dSetR }

/-- R103, R105, R110: `CLRBIT` in STABLE is issued. -/
def Obligations.ClrbitIsIssued : Prop :=
  ∀ (s : State) (a : Word) (b : BitIndex), s.seqState = 0x20#6 → OperandsPass s.cfg a b →
    exec (.clrbit a b) s = .next { s with
      clientBusy := true, clientOp := some .clrbit
      engOwner := .client, engOp := .clr, engAddr := a, engBit := b, engVal := false
      engAlias := if s.cfg.bbLo ≤ a ∧ a ≤ s.cfg.bbHi then
          (a &&& s.cfg.highMask) + s.cfg.aliasOffset + ((a &&& s.cfg.lowMask) <<< 5) + (b.setWidth 32 <<< 2)
        else s.engAlias
      engWdata := if s.cfg.bbLo ≤ a ∧ a ≤ s.cfg.bbHi then 0 else s.engWdata
      engPhase := if s.cfg.bbLo ≤ a ∧ a ≤ s.cfg.bbHi then .aWrite else .dClrR }

/-- R103, R105, R111: `WRBIT` in STABLE is issued; its direct path begins with the clear half. -/
def Obligations.WrbitIsIssued : Prop :=
  ∀ (s : State) (a : Word) (b : BitIndex) (v : Bool), s.seqState = 0x20#6 → OperandsPass s.cfg a b →
    exec (.wrbit a b v) s = .next { s with
      clientBusy := true, clientOp := some .wrbit
      engOwner := .client, engOp := .wr, engAddr := a, engBit := b, engVal := v
      engAlias := if s.cfg.bbLo ≤ a ∧ a ≤ s.cfg.bbHi then
          (a &&& s.cfg.highMask) + s.cfg.aliasOffset + ((a &&& s.cfg.lowMask) <<< 5) + (b.setWidth 32 <<< 2)
        else s.engAlias
      engWdata := if s.cfg.bbLo ≤ a ∧ a ≤ s.cfg.bbHi then (if v then 1 else 0) else s.engWdata
      engPhase := if s.cfg.bbLo ≤ a ∧ a ≤ s.cfg.bbHi then .aWrite else .dClrR }

/-- R143: `INITCLK` in PRE-INIT moves the CBS to `S_OSC_PWRUP` and waits; nothing else changes. -/
def Obligations.InitclkStartsTheBringup : Prop :=
  ∀ s : State, s.seqState = 0x00#6 →
    exec .initclk s = .next { s with clientBusy := true, clientOp := some .initclk, seqState := 0x01#6 }

/-- R144: `GETFREQ` in STABLE responds with ClockState on its accepting step; no register and no memory changes. -/
def Obligations.GetfreqRespondsClockState : Prop :=
  ∀ (s : State) (f : Word), s.seqState = 0x20#6 → s.clockHz = some f →
    exec .getfreq s = .next { s with rsp := some f, clientBusy := false, events := s.events ++ [.resp f] }

/-- R86: a word whose `OP` is 110 or 111 is refused with `RESERVED_OP` whatever its other bits and in every state, with no
other effect. That it decodes to its reserved row (log 21) and that the refusal is a mark set in a next state (R12; log 1)
are the model's forms. -/
def Obligations.ReservedOpsAreRefused : Prop :=
  ∀ (w : ReqWord) (s : State),
    (w.extractLsb' 40 3 = 6#3 → decode w = .ok (.reservedOp110 w)
      ∧ exec (.reservedOp110 w) s = .next { s with refused := some .reservedOp })
    ∧ (w.extractLsb' 40 3 = 7#3 → decode w = .ok (.reservedOp111 w)
      ∧ exec (.reservedOp111 w) s = .next { s with refused := some .reservedOp })

/-- R103: the operations out of their CBS phase are refused, whatever their operands, and nothing else changes. That the
refusal is a mark set in a next state is the model's form (R12; log 1). -/
def Obligations.RequestsOutOfPhaseAreRefused : Prop :=
  ∀ (s : State) (a : Word) (b : BitIndex) (v : Bool),
    (s.seqState = 0x00#6 →
      exec (.rdbit a b) s = .next { s with refused := some .notInitialised }
      ∧ exec (.setbit a b) s = .next { s with refused := some .notInitialised }
      ∧ exec (.clrbit a b) s = .next { s with refused := some .notInitialised }
      ∧ exec (.wrbit a b v) s = .next { s with refused := some .notInitialised }
      ∧ exec .getfreq s = .next { s with refused := some .notInitialised })
    ∧ (s.seqState = 0x20#6 → exec .initclk s = .next { s with refused := some .initTwice })

/-- R104: the operand checks in their order; a failed check changes nothing but the mark. That the refusal is a mark set in
a next state is the model's form (R12; log 1). -/
def Obligations.OperandChecksInOrder : Prop :=
  ∀ (s : State) (a : Word) (b : BitIndex) (v : Bool), s.seqState = 0x20#6 →
    ∀ i ∈ [Instr.rdbit a b, Instr.setbit a b, Instr.clrbit a b, Instr.wrbit a b v],
      (a.extractLsb' 0 2 ≠ 0#2 → exec i s = .next { s with refused := some .unalignedAddr })
      ∧ (a.extractLsb' 0 2 = 0#2 → regWidth s.cfg a ≤ b.toNat →
          exec i s = .next { s with refused := some .bitOutOfRange })

/-! ### The operations: whole runs, transaction by transaction -/

/-- R108, R112, R115: `RDBIT` on the alias path is one read of the alias word; it responds the bit, a draw for a volatile
word, and changes no memory. Masks that share no bit are a premise of the model's (log 18); the draw of the upper bits is
the model's form (log 15). -/
def Obligations.RdbitAliasPathRun : Prop :=
  ∀ (s : State) (a : Word) (b : BitIndex) (rest : List ReqWord),
    ReadyStable s → s.reqs = encode (.rdbit a b) :: rest → OperandsPass s.cfg a b → OnAliasPath s.cfg a →
    ∃ r : Word, ∃ v : Bool,
      r.getLsbD 0 = v
      ∧ v = (if isVolatile s.cfg a then (nextDraw s).getLsbD 0 else bitOf (memWord s a) b)
      ∧ runSteps 2 s = .next { s with
          reqs := rest, clientOp := some .rdbit
          engOwner := .client, engOp := .rd, engAddr := a, engBit := b, engVal := false
          engAlias := aliasAddr s.cfg a b, engResult := v
          draws := s.draws.tail, drawCount := s.drawCount + 1
          rsp := some (if v then 1 else 0)
          events := s.events ++ [.busR (aliasAddr s.cfg a b) r, .resp (if v then 1 else 0)] }

/-- R108, R112: `RDBIT` of a plain word on the direct path is one read of the word; it responds bit `b` of it. -/
def Obligations.RdbitDirectPathRun : Prop :=
  ∀ (s : State) (a : Word) (b : BitIndex) (rest : List ReqWord),
    ReadyStable s → s.reqs = encode (.rdbit a b) :: rest → OperandsPass s.cfg a b → OnDirectPath s.cfg a →
    PlainWord s.cfg a →
    runSteps 2 s = .next { s with
      reqs := rest, clientOp := some .rdbit
      engOwner := .client, engOp := .rd, engAddr := a, engBit := b, engVal := false
      engResult := (memWord s a).getLsbD b.toNat
      rsp := some (if (memWord s a).getLsbD b.toNat then 1 else 0)
      events := s.events ++
        [.busR a (memWord s a), .resp (if (memWord s a).getLsbD b.toNat then 1 else 0)] }

/-- R52, R108, R114: `RDBIT` on the direct path of a word whose reads are drawn responds bit `b` of the word answered and
changes no memory: for a volatile word the environment's draw, whatever memory holds; for an alias word a draw whose bit 0
is the aliased bit (log 15). -/
def Obligations.RdbitDrawnDirectRun : Prop :=
  ∀ (s : State) (a : Word) (b : BitIndex) (rest : List ReqWord),
    ReadyStable s → s.reqs = encode (.rdbit a b) :: rest → OperandsPass s.cfg a b → OnDirectPath s.cfg a →
    (inAliasWindow s.cfg a = true ∨ isVolatile s.cfg a = true) →
    runSteps 2 s = .next { s with
      reqs := rest, clientOp := some .rdbit
      engOwner := .client, engOp := .rd, engAddr := a, engBit := b, engVal := false
      engResult := (answer s a).getLsbD b.toNat
      draws := s.draws.tail, drawCount := s.drawCount + 1
      rsp := some (if (answer s a).getLsbD b.toNat then 1 else 0)
      events := s.events ++ [.busR a (answer s a), .resp (if (answer s a).getLsbD b.toNat then 1 else 0)] }

/-- R109 to R112, R66: `SETBIT`, `CLRBIT` and `WRBIT` on the alias path are one write of 1, 0 or the value to the alias
word; the bit takes that value, every other bit and byte stays, the response is 0. Masks that share no bit are a premise
of the model's (log 18). -/
def Obligations.BitWritesAliasPathRun : Prop :=
  ∀ (s : State) (a : Word) (b : BitIndex) (v : Bool) (rest : List ReqWord) (i : Instr) (eop : EngOp) (ev : Bool),
    (i, eop, ev, v) ∈ [(Instr.setbit a b, EngOp.set, false, true), (Instr.clrbit a b, EngOp.clr, false, false),
        (Instr.wrbit a b v, EngOp.wr, v, v)] →
    ReadyStable s → s.mem.wf s.cfg = true → s.reqs = encode i :: rest → OperandsPass s.cfg a b → OnAliasPath s.cfg a →
    ∃ t, runSteps 2 s = .next t
      ∧ t = { s with
          reqs := rest, clientOp := some (clientOpOf eop)
          engOwner := .client, engOp := eop, engAddr := a, engBit := b, engVal := ev
          engAlias := aliasAddr s.cfg a b, engWdata := if v then 1 else 0
          rsp := some 0
          events := s.events ++ [.busW (aliasAddr s.cfg a b) (if v then 1 else 0), .resp 0]
          mem := t.mem }
      ∧ OneBitChanged a b v s t

/-- R52, R53, R106, R109, R114: `SETBIT` on the direct path reads the word and writes it back with bit `b` set, whether the
word is plain, volatile (the word read is a draw) or an alias word (the write changes the aliased bit, log 15); on a plain
word one bit of memory changes. -/
def Obligations.SetbitDirectPathRun : Prop :=
  ∀ (s : State) (a : Word) (b : BitIndex) (rest : List ReqWord),
    ReadyStable s → s.mem.wf s.cfg = true → s.reqs = encode (.setbit a b) :: rest → OperandsPass s.cfg a b →
    OnDirectPath s.cfg a →
    ∃ t, runSteps 3 s = .next t
      ∧ t = { s with
          reqs := rest, clientOp := some .setbit
          engOwner := .client, engOp := .set, engAddr := a, engBit := b, engVal := false
          engTmp := answer s a
          draws := s.draws.drop (drawsOf s.cfg a), drawCount := s.drawCount + drawsOf s.cfg a
          rsp := some 0
          events := s.events ++ [.busR a (answer s a), .busW a (answer s a ||| 1#32 <<< b.toNat), .resp 0]
          mem := t.mem }
      ∧ WordWritten a (answer s a ||| 1#32 <<< b.toNat) s t
      ∧ (PlainWord s.cfg a → answer s a = memWord s a ∧ OneBitChanged a b true s t)

/-- R52, R53, R106, R110, R114: `CLRBIT` on the direct path reads the word, plain, volatile or an alias word (log 15), and
writes it back with bit `b` clear; on a plain word one bit of memory changes. -/
def Obligations.ClrbitDirectPathRun : Prop :=
  ∀ (s : State) (a : Word) (b : BitIndex) (rest : List ReqWord),
    ReadyStable s → s.mem.wf s.cfg = true → s.reqs = encode (.clrbit a b) :: rest → OperandsPass s.cfg a b →
    OnDirectPath s.cfg a →
    ∃ t, runSteps 3 s = .next t
      ∧ t = { s with
          reqs := rest, clientOp := some .clrbit
          engOwner := .client, engOp := .clr, engAddr := a, engBit := b, engVal := false
          engTmp := answer s a
          draws := s.draws.drop (drawsOf s.cfg a), drawCount := s.drawCount + drawsOf s.cfg a
          rsp := some 0
          events := s.events ++ [.busR a (answer s a), .busW a (answer s a &&& ~~~(1#32 <<< b.toNat)), .resp 0]
          mem := t.mem }
      ∧ WordWritten a (answer s a &&& ~~~(1#32 <<< b.toNat)) s t
      ∧ (PlainWord s.cfg a → answer s a = memWord s a ∧ OneBitChanged a b false s t)

/-- R52, R53, R106, R111, R114: `WRBIT` of 0 on the direct path is the clear half alone, of a plain, volatile or alias
word (log 15). -/
def Obligations.WrbitZeroDirectPathRun : Prop :=
  ∀ (s : State) (a : Word) (b : BitIndex) (rest : List ReqWord),
    ReadyStable s → s.mem.wf s.cfg = true → s.reqs = encode (.wrbit a b false) :: rest → OperandsPass s.cfg a b →
    OnDirectPath s.cfg a →
    ∃ t, runSteps 3 s = .next t
      ∧ t = { s with
          reqs := rest, clientOp := some .wrbit
          engOwner := .client, engOp := .wr, engAddr := a, engBit := b, engVal := false
          engTmp := answer s a
          draws := s.draws.drop (drawsOf s.cfg a), drawCount := s.drawCount + drawsOf s.cfg a
          rsp := some 0
          events := s.events ++ [.busR a (answer s a), .busW a (answer s a &&& ~~~(1#32 <<< b.toNat)), .resp 0]
          mem := t.mem }
      ∧ WordWritten a (answer s a &&& ~~~(1#32 <<< b.toNat)) s t
      ∧ (PlainWord s.cfg a → answer s a = memWord s a ∧ OneBitChanged a b false s t)

/-- R52, R53, R106, R111, R114, R237: `WRBIT` of 1 on the direct path is the clear half, after which a plain word's bit is 0
in memory, then the set half over a fresh read: of a volatile word a second draw, of an alias word what the clear half left
of the aliased bit (log 15). -/
def Obligations.WrbitOneDirectPathRun : Prop :=
  ∀ (s : State) (a : Word) (b : BitIndex) (rest : List ReqWord),
    ReadyStable s → s.mem.wf s.cfg = true → s.reqs = encode (.wrbit a b true) :: rest → OperandsPass s.cfg a b →
    OnDirectPath s.cfg a →
    ∃ u t, runSteps 3 s = .next u ∧ runSteps 5 s = .next t
      ∧ u = { s with
          reqs := rest, clientOp := some .wrbit, clientBusy := true
          engPhase := .dSetR, engOwner := .client, engOp := .wr, engAddr := a, engBit := b, engVal := true
          engTmp := answer s a
          draws := s.draws.drop (drawsOf s.cfg a), drawCount := s.drawCount + drawsOf s.cfg a
          rsp := none
          events := s.events ++ [.busR a (answer s a), .busW a (answer s a &&& ~~~(1#32 <<< b.toNat))]
          mem := u.mem }
      ∧ WordWritten a (answer s a &&& ~~~(1#32 <<< b.toNat)) s u
      ∧ t = { u with
          clientBusy := false, engPhase := .idle, engTmp := answer u a
          draws := u.draws.drop (drawsOf s.cfg a), drawCount := u.drawCount + drawsOf s.cfg a
          rsp := some 0
          events := u.events ++ [.busR a (answer u a), .busW a (answer u a ||| 1#32 <<< b.toNat), .resp 0]
          mem := t.mem }
      ∧ WordWritten a (answer u a ||| 1#32 <<< b.toNat) u t
      ∧ (PlainWord s.cfg a →
          answer s a = memWord s a ∧ answer u a = memWord s a &&& ~~~(1#32 <<< b.toNat)
          ∧ OneBitChanged a b false s u ∧ OneBitChanged a b true s t)

/-- R113: on a plain word of either path, a bit write changes that bit alone, and the read that follows it returns the
written value. That the alias path's masks share no bit and that a direct word is no alias word are premises of the
model's (log 18). -/
def Obligations.BitWriteThenReadReturnsIt : Prop :=
  ∀ (s : State) (i : Instr) (a : Word) (b : BitIndex) (v : Bool) (rest : List ReqWord),
    writeTarget i = some (a, b, v) → ReadyStable s → s.mem.wf s.cfg = true →
    s.reqs = encode i :: encode (.rdbit a b) :: rest → OperandsPass s.cfg a b →
    (OnAliasPath s.cfg a ∨ OnDirectPath s.cfg a) → PlainWord s.cfg a →
    ∃ t, runSteps (writeSteps s.cfg i + 2) s = .next t
      ∧ t.rsp = some (if v then 1 else 0) ∧ OneBitChanged a b v s t
      ∧ t.reqs = rest ∧ Unmarked t ∧ AtRest t ∧ t.seqState = s.seqState ∧ t.clockHz = s.clockHz

/-- R61: a transaction to a word that is not MAPPED faults and does not happen; for an alias address MAPPED is taken of
the decoded word. -/
def Obligations.UnmappedTransactionFaults : Prop :=
  ∀ (s : State) (a v : Word),
    isMapped s.cfg (if inAliasWindow s.cfg a then (aliasDecode s.cfg a).1 else a) = false →
    busRead a s = .error .unmapped ∧ busWrite a v s = .error .unmapped
    ∧ (s.engPhase ≠ .idle →
        (if s.engPhase = .aWrite ∨ s.engPhase = .aRead then s.engAlias else s.engAddr) = a →
        engineStep s = { s with fault := some .unmapped })

/-- R69: on the direct path a change another agent makes between the read and the write of a `SETBIT` is lost: the word
holds what was read with bit `b` set. -/
def Obligations.DirectWriteLosesTheOtherUpdate : Prop :=
  ∀ (s : State) (a : Word) (b : BitIndex) (x : Word) (rest : List ReqWord),
    configWf s.cfg = true → Unmarked s → AtRest s → s.seqState = 0x20#6 → s.mem.wf s.cfg = true →
    s.stimuli = [{}, {}, { writes := [(a, x)] }] → isEnvWritable s.cfg a = true →
    s.reqs = encode (.setbit a b) :: rest → OperandsPass s.cfg a b → OnDirectPath s.cfg a →
    inAliasWindow s.cfg a = false →
    ∃ t, runSteps 3 s = .next t ∧ memWord t a = answer s a ||| 1#32 <<< b.toNat
      ∧ (PlainWord s.cfg a → answer s a = memWord s a) ∧ SameOutside a s t

/-! ### Alias addresses and memory -/

/-- R102: under masks that share no bit (the model's premise, log 18), decoding the alias of a word and bit of the window
gives them back, and the alias lies in the alias window. -/
def Obligations.AliasDecodeInvertsAlias : Prop :=
  ∀ (c : Config) (a : Word) (b : BitIndex),
    configWf c = true → MasksDisjoint c → inWindow c a = true → a.extractLsb' 0 2 = 0#2 →
    aliasDecode c (aliasAddr c a b) = (a, b) ∧ inAliasWindow c (aliasAddr c a b) = true

/-- R102: no two bits of the window share an alias. -/
def Obligations.AliasIsInjectiveOnTheWindow : Prop :=
  ∀ (c : Config) (a a' : Word) (b b' : BitIndex),
    configWf c = true → inWindow c a = true → inWindow c a' = true →
    a.extractLsb' 0 2 = 0#2 → a'.extractLsb' 0 2 = 0#2 →
    aliasAddr c a b = aliasAddr c a' b' → a = a' ∧ b = b'

/-- Log 18: R102's premise is needed. The configuration of log 18 passes WF1 to WF7, its masks share the bit 0x00100000,
and by R101 and R54 the alias of its window's first word, and of its last, decodes to the word 0x00100000 above it, which is
no word of the window. -/
def Obligations.AliasDecodeNeedsDisjointMasks : Prop :=
  let c := { Config.d35 with
    bbLo := 0x40100000, bbHi := 0x401FFFFF, highMask := 0xF0100000, lowMask := 0x001FFFFF, aliasOffset := 0x02000000 }
  configWf c = true ∧ ¬ MasksDisjoint c ∧ c.highMask &&& c.lowMask = 0x00100000#32
    ∧ inWindow c 0x40100000 = true ∧ aliasAddr c 0x40100000 5 = 0x44100014#32
    ∧ aliasDecode c 0x44100014 = (0x40200000#32, 5#5) ∧ inWindow c 0x40200000 = false
    ∧ inWindow c 0x401FFFFC = true ∧ aliasAddr c 0x401FFFFC 31 = 0x460FFFFC#32
    ∧ aliasDecode c 0x460FFFFC = (0x402FFFFC#32, 31#5) ∧ inWindow c 0x402FFFFC = false

/-- R55: the alias of bit `j` of byte `a + k` is the alias of bit `8k + j` of the word; that the masks hold the two
lowest bits as the defaults do is a premise of the model's (log 18). -/
def Obligations.AliasOfByteIsAliasOfWordBit : Prop :=
  ∀ (c : Config) (a : Word) (k j : Nat), k < 4 → j < 8 → a.extractLsb' 0 2 = 0#2 →
    c.lowMask &&& 3#32 = 3#32 → c.highMask &&& 3#32 = 0#32 →
    aliasAddr c (a + BitVec.ofNat 32 k) (BitVec.ofNat 5 j) = aliasAddr c a (BitVec.ofNat 5 (8 * k + j))

/-- R100, R114: an address of the alias window is outside the window, so the engine takes the direct path for it. -/
def Obligations.AliasWordsTakeTheDirectPath : Prop :=
  ∀ (c : Config) (op : EngOp) (a : Word), configWf c = true → inAliasWindow c a = true →
    issuePhase c op a = (match op with | .rd => .dRead | .set => .dSetR | .clr => .dClrR | .wr => .dClrR)

/-- R53, R66: an alias write of any word changes one bit of the decoded word to the written word's bit 0, which for a word
other than 0 and 1 is the spec's general-knowledge reading (log 15). -/
def Obligations.AliasWriteChangesOneBit : Prop :=
  ∀ (s : State) (a v : Word), s.mem.wf s.cfg = true → inAliasWindow s.cfg a = true →
    isMapped s.cfg (aliasDecode s.cfg a).1 = true →
    ∃ t, busWrite a v s = .ok t
      ∧ OneBitChanged (aliasDecode s.cfg a).1 (aliasDecode s.cfg a).2 (v.getLsbD 0) s t

/-! ### The clock bring-up sequencer -/

/-- R22, R164: without reset the CBS never goes back, and `S_STABLE` is absorbing. -/
def Obligations.SequencerNeverGoesBack : Prop :=
  ∀ s t : State, resetRaised s = false → step s = .next t →
    s.seqState ≤ t.seqState ∧ (s.seqState = 0x20#6 → t.seqState = 0x20#6)

/-- R25, R162: without reset ClockState is written by `S_RECORD` only, and then with the computed frequency. -/
def Obligations.ClockStateIsWrittenByRecordOnly : Prop :=
  ∀ s t : State, resetRaised s = false → step s = .next t →
    t.clockHz = s.clockHz ∨ (s.seqState = 0x12#6 ∧ t.clockHz = some (BitVec.ofNat 32 (freqHz s.cfg)))

/-- R146, R148, R149, R152, R155, R157, R159: a state whose action is a word write writes that one word, reads nothing, and
moves on, in one step; the word of `S_OSC_CFG` is R148's formula (its bit positions are the family's, log 13), and leaving
that state clears `settle_cnt`. A register that is an alias word has its aliased bit made the written word's bit 0, the
reading of log 15; that its target is MAPPED is a premise of the model's (log 18), and for any other register it is
WF5's. -/
def Obligations.WordStatesWriteOneWord : Prop :=
  ∀ (s : State) (code next : BitVec 6) (a v : Word),
    (code, a, v, next) ∈ wordRows s.cfg → SeqAt code s → s.mem.wf s.cfg = true →
    isMapped s.cfg (targetWord s.cfg a) = true →
    ∃ t, step s = .next t
      ∧ t = { s with rsp := none, seqState := next, settleCnt := if code = 0x02#6 then 0 else s.settleCnt
                     events := s.events ++ [.busW a v], mem := t.mem }
      ∧ WordWritten a v s t

/-- R105, R106, R145, R147, R154, R165 (c): a power-up state clears its bit of `PDRUNCFG` and moves on: with `PDRUNCFG` in
the window by one alias write, in three steps; outside it by a read and a write of the word, in four. No other bit of a
plain `PDRUNCFG` changes; what an alias word's read answers and its write changes is log 15's reading. Masks that share no
bit, and the MAPPED target of an alias word, are premises of the model's
(log 18). -/
def Obligations.PowerUpStatesClearOneBit : Prop :=
  ∀ (s : State) (code next : BitVec 6) (b : BitIndex) (p : Word),
    (code, b, next) ∈ powerRows s.cfg → SeqAt code s → s.mem.wf s.cfg = true →
    p = s.cfg.map.base + s.cfg.map.pdRunCfg →
    (inWindow s.cfg p = true → MasksDisjoint s.cfg →
      ∃ t, runSteps 3 s = .next t
        ∧ t = { s with
            rsp := none, seqState := next
            engOwner := .seq, engOp := .clr, engAddr := p, engBit := b, engVal := false
            engAlias := aliasAddr s.cfg p b, engWdata := 0
            events := s.events ++ [.busW (aliasAddr s.cfg p b) 0]
            mem := t.mem }
        ∧ OneBitChanged p b false s t)
    ∧ (OnDirectPath s.cfg p →
      ∃ t, runSteps 4 s = .next t
        ∧ t = { s with
            rsp := none, seqState := next
            engOwner := .seq, engOp := .clr, engAddr := p, engBit := b, engVal := false
            engTmp := answer s p
            draws := s.draws.drop (drawsOf s.cfg p), drawCount := s.drawCount + drawsOf s.cfg p
            events := s.events ++ [.busR p (answer s p), .busW p (answer s p &&& ~~~(1#32 <<< b.toNat))]
            mem := t.mem }
        ∧ WordWritten p (answer s p &&& ~~~(1#32 <<< b.toNat)) s t
        ∧ (PlainWord s.cfg p → answer s p = memWord s p ∧ OneBitChanged p b false s t))

/-- R105, R106, R145, R150, R156: one poll iteration is issue, read, consume, on the path of the polled word; it moves on
exactly when the bit read is 1, and entering `S_STABLE` responds 0 to `INITCLK` (R164). It holds for every value of a draw
and for a polled word that is not volatile; what an alias word's read answers is log 15's form. Masks that share no bit, and
the MAPPED target of an alias word, are premises of the model's (log 18). -/
def Obligations.PollMovesOnExactlyOnOne : Prop :=
  ∀ (s : State) (code next : BitVec 6) (a : Word) (b : BitIndex) (A : Word) (n : Nat) (v : Bool),
    (code, a, b, next) ∈ pollRows s.cfg → SeqAt code s → EngineReaches s.cfg a →
    A = busAddress s.cfg a b → n = drawsOf s.cfg A → v = engineBit s a b →
    runSteps 3 s = .next { s with
      engOwner := .seq, engOp := .rd, engAddr := a, engBit := b, engVal := false
      engAlias := if inWindow s.cfg a then A else s.engAlias
      engResult := v
      draws := s.draws.drop n, drawCount := s.drawCount + n
      seqState := if v then next else code
      clientBusy := !(v && next == 0x20#6)
      rsp := if (v && next == 0x20#6) then some 0 else none
      events := s.events ++ [.busR A (answer s A)] ++ (if (v && next == 0x20#6) then [.resp 0] else []) }

/-- R163, R203: a poll whose reads keep returning 0 stays in its state for any number of iterations, answers nothing, sets
no mark and holds what is presented; each iteration is one read. The k-th read is the one after the draws of the k reads
before it. The form of an alias word's answer is log 15's, and the premises on the polled word are those of
`PollMovesOnExactlyOnOne` (log 18). -/
def Obligations.PollOfZerosWaitsOn : Prop :=
  ∀ (s : State) (code next : BitVec 6) (a : Word) (b : BitIndex) (A : Word) (m n : Nat),
    (code, a, b, next) ∈ pollRows s.cfg → SeqAt code s → EngineReaches s.cfg a →
    A = busAddress s.cfg a b → m = drawsOf s.cfg A →
    (∀ k < n, engineBit (skipDraws (k * m) s) a b = false) →
    ∃ t, runSteps (3 * n) s = .next t ∧ SeqAt code t ∧ t.reqs = s.reqs ∧ t.mem = s.mem
      ∧ t.events = s.events ++ (List.range n).map (fun k => Event.busR A (answer (skipDraws (k * m) s) A))

/-- R150 and DOC §8 item 5: a handshake writes 1, 0, 1 to its update-enable register, once, then polls the acknowledge
until it reads 1, and only then moves on; its writes and its reads are its only events. The acknowledge is on either path
and may be volatile or not, the register itself among them. Of an update-enable register that is an alias word
the writes change the aliased bit, and of an acknowledge that is one the reads answer it, by log 15's reading. Masks that
share no bit, and the MAPPED target of an alias word, are premises of the model's (log 18). -/
def Obligations.HandshakeWritesThenPolls : Prop :=
  ∀ (s : State) (code next : BitVec 6) (u : Word) (k : AckLoc) (A one : Word) (m : Nat),
    (code, u, k, next) ∈ handshakeRows s.cfg → SeqAt code s → isMapped s.cfg (targetWord s.cfg u) = true →
    EngineReaches s.cfg k.addr → A = busAddress s.cfg k.addr k.bit → m = drawsOf s.cfg A →
    one = 1#32 <<< s.cfg.uenBit.toNat →
    ∃ w, runSteps 3 s = .next w
      ∧ w = { s with rsp := none, seqState := code + 3#6, mem := w.mem
                     events := s.events ++ [.busW u one, .busW u 0, .busW u one] }
      ∧ (s.mem.wf s.cfg = true → WordWritten u one s w)
      ∧ ∀ n, (∀ i < n, engineBit (skipDraws (i * m) w) k.addr k.bit = false) →
          engineBit (skipDraws (n * m) w) k.addr k.bit = true →
          ∃ t, runSteps (3 + 3 * (n + 1)) s = .next t ∧ t.seqState = next ∧ t.draws = s.draws.drop ((n + 1) * m)
            ∧ t.mem = w.mem ∧ Unmarked t
            ∧ t.events = w.events
                ++ (List.range (n + 1)).map (fun i => Event.busR A (answer (skipDraws (i * m) w) A))
                ++ (if next = 0x20#6 then [.resp 0] else [])

/-- R151: a settle tick increments `settle_cnt`, or leaves when it equals `OSC_SETTLE_ITER`; no bus transaction; from 0 the
state takes `OSC_SETTLE_ITER + 1` steps. -/
def Obligations.SettleTakesIterPlusOneSteps : Prop :=
  ∀ s : State, SeqAt 0x03#6 s →
    (s.settleCnt = s.cfg.oscSettleIter → step s = .next { s with rsp := none, seqState := 0x04#6 })
    ∧ (s.settleCnt ≠ s.cfg.oscSettleIter → step s = .next { s with rsp := none, settleCnt := s.settleCnt + 1 })
    ∧ (s.settleCnt = 0 → runSteps (s.cfg.oscSettleIter.toNat + 1) s =
        .next { s with rsp := none, settleCnt := s.cfg.oscSettleIter, seqState := 0x04#6 })

/-- R160, R161, R164: `S_RECORD` performs no transaction, records FREQ exactly, and goes on to the USB domain when it is
enabled, else to `S_STABLE` with the response to `INITCLK`. -/
def Obligations.RecordStoresTheFrequency : Prop :=
  ∀ s : State, SeqAt 0x12#6 s →
    let fin := if s.cfg.pllSrc = 0 then s.cfg.fIrc else s.cfg.fXtal
    let fout := fin * (s.cfg.pllCtrl % 32 + 1)
    let fmain := if s.cfg.mainSel = 0 then s.cfg.fIrc else if s.cfg.mainSel = 1 then fin else fout
    ∃ f : Word, f.toNat = fmain / s.cfg.busDiv
      ∧ (s.cfg.usbEnable = true → step s = .next { s with rsp := none, clockHz := some f, seqState := 0x13#6 })
      ∧ (s.cfg.usbEnable = false → step s = .next { s with
          clockHz := some f, seqState := 0x20#6, clientBusy := false, rsp := some 0
          events := s.events ++ [.resp 0] })

/-- R167: the complete bus trace of `INITCLK` under R7's defaults, for any settle count, any mapping, any draws, any
number of acknowledge and lock reads, and any memory it starts from; `F_XTAL` is D35's 12 MHz. -/
def Obligations.InitclkTraceUnderTheDefaults : Prop :=
  ∀ (s : State) (iter : Word) (mapped : List AddrRange) (rest : List ReqWord)
    (z1 z2 z3 later : List Word) (o1 o2 o3 : Word),
    ReadyPreInit s → s.cfg = { Config.d35 with oscSettleIter := iter, mapped := mapped } →
    s.reqs = 0x040000000000#48 :: rest →
    s.draws = z1 ++ o1 :: (z2 ++ o2 :: (z3 ++ o3 :: later)) →
    (∀ d ∈ z1 ++ z2 ++ z3, d.getLsbD 0 = false) →
    o1.getLsbD 0 = true → o2.getLsbD 0 = true → o3.getLsbD 0 = true →
    ∃ t, runSteps (29 + iter.toNat + 3 * (z1.length + z2.length + z3.length)) s = .next t
      ∧ t.events = s.events
          ++ [.busW 0x42904714 0, .busW 0x40048020 0, .busW 0x40048040 1,
              .busW 0x40048044 1, .busW 0x40048044 0, .busW 0x40048044 1]
          ++ (z1 ++ [o1]).map (fun d => Event.busR 0x42900880 d)
          ++ [.busW 0x4290471C 0, .busW 0x40048008 0x25]
          ++ (z2 ++ [o2]).map (fun d => Event.busR 0x42900180 d)
          ++ [.busW 0x40048070 3, .busW 0x40048074 1, .busW 0x40048074 0, .busW 0x40048074 1]
          ++ (z3 ++ [o3]).map (fun d => Event.busR 0x42900E80 d)
          ++ [.busW 0x40048078 1, .resp 0]
      ∧ t.clockHz = some 72000000#32 ∧ t.rsp = some 0 ∧ t.seqState = 0x20#6 ∧ Unmarked t ∧ AtRest t ∧ t.reqs = rest

/-! ### Reset and the invariant -/

/-- R39: the block's registers right after reset, where R39 gives them a value. -/
def Obligations.ResetLeavesTheStatedValues : Prop :=
  State.reset.seqState = 0x00#6 ∧ State.reset.seqIssued = false ∧ State.reset.settleCnt = 0#32
    ∧ State.reset.clockHz = none ∧ State.reset.engPhase = .idle ∧ State.reset.engDone = false
    ∧ State.reset.clientBusy = false ∧ State.reset.clientOp = none ∧ State.reset.refused = none
    ∧ State.reset.fault = none ∧ stableOut State.reset = false ∧ busyOut State.reset = false

/-- R63, R230, R232: the reset step discards what is in flight and the presented request, responds nothing, and writes no
memory: only words of ENV_WRITABLE can differ, by the environment's own change. That only the word on the port is
discarded (log 7) and that a marked block resets (log 14) are the model's readings; that a block whose registers disagree
resets, with no `INTERNAL_STATE`, is its choice (log 14). -/
def Obligations.ResetStepDiscardsTheOperation : Prop :=
  ∀ s : State, configWf s.cfg = true → resetRaised s = true →
    ∃ t, step s = .next t
      ∧ t.seqState = 0x00#6 ∧ t.seqIssued = false ∧ t.settleCnt = 0#32 ∧ t.clockHz = none ∧ t.engPhase = .idle
      ∧ t.engDone = false ∧ t.clientBusy = false ∧ t.clientOp = none
      ∧ t.rsp = none ∧ t.events = s.events ∧ t.reqs = (s.reqs ++ (stimulus s).req.toList).tail
      ∧ t.mem = (absorb s).mem ∧ (∀ x, OutsideEnvWords s.cfg x → memByte t x = memByte s x)
      ∧ t.refused = s.refused ∧ t.fault = s.fault

/-- R52, R53, R233 (c): a reset between the halves of a direct `WRBIT` of 1 leaves the word as the clear half wrote it, and
nothing is responded. Of a plain word the bit is 0 and no other bit changes; of a volatile word the word is the draw with
the bit 0; of an alias word the aliased bit is bit 0 of the word written (log 15), which the bit `b` cleared is only
when `b` is 0. -/
def Obligations.ResetBetweenHalvesLeavesTheBitClear : Prop :=
  ∀ (s : State) (a : Word) (b : BitIndex) (rest : List ReqWord),
    configWf s.cfg = true → Unmarked s → AtRest s → s.seqState = 0x20#6 → s.mem.wf s.cfg = true →
    s.stimuli = [{}, {}, {}, { rst := true }] → s.reqs = encode (.wrbit a b true) :: rest →
    OperandsPass s.cfg a b → OnDirectPath s.cfg a →
    ∃ t, runSteps 4 s = .next t ∧ WordWritten a (answer s a &&& ~~~(1#32 <<< b.toNat)) s t
      ∧ (PlainWord s.cfg a → answer s a = memWord s a ∧ OneBitChanged a b false s t)
      ∧ t.seqState = 0x00#6 ∧ t.engPhase = .idle ∧ t.clientBusy = false ∧ t.rsp = none
      ∧ t.events = s.events ++ [.busR a (answer s a), .busW a (answer s a &&& ~~~(1#32 <<< b.toNat))]

/-- R230, R235: the machine after reset meets the invariant. -/
def Obligations.InvariantHoldsAtReset : Prop := invariant State.reset = true

/-- R25, R28, R40, R105 to R107, R145, R162: every step keeps the invariant, resets and the environment's changes
among them. -/
def Obligations.EveryStepKeepsTheInvariant : Prop :=
  ∀ s t : State, invariant s = true → step s = .next t → invariant t = true

/-- R40, R202, R206: an unused code raises `INTERNAL_STATE` before the step's action, and so does a disagreement of the
sequencer and the engine: an operation issued and neither in flight nor done; one in flight in a state that writes a word;
one in a state that polls or powers up that is not that state's own operation in a phase of its own. That these are
disagreements is log 9's reading, and that the fault is a mark set in a next state log 1's form. -/
def Obligations.DisagreementRaisesInternalState : Prop :=
  ∀ s : State, configWf s.cfg = true → resetRaised s = false → Unmarked s →
    (0x20#6 < s.seqState
      ∨ (s.seqIssued = true ∧ s.engPhase = .idle ∧ s.engDone = false)
      ∨ (∃ row ∈ wordRows s.cfg, s.seqState = row.1 ∧ s.engPhase ≠ .idle)
      ∨ (∃ row ∈ pollRows s.cfg, s.seqState = row.1 ∧ s.engPhase ≠ .idle
          ∧ (s.engPhase ∉ [EngPhase.aRead, .dRead] ∨ s.engOp ≠ .rd ∨ s.engAddr ≠ row.2.1 ∨ s.engBit ≠ row.2.2.1))
      ∨ (∃ row ∈ powerRows s.cfg, s.seqState = row.1 ∧ s.engPhase ≠ .idle
          ∧ (s.engPhase ∉ [EngPhase.aWrite, .dClrR, .dClrW] ∨ s.engOp ≠ .clr
            ∨ s.engAddr ≠ s.cfg.map.base + s.cfg.map.pdRunCfg ∨ s.engBit ≠ row.2.1))) →
    step s = .next { absorb s with fault := some .internalState }

/-- R40, R202: no step from a state of the invariant raises `INTERNAL_STATE`. -/
def Obligations.InternalStateFaultIsUnreachable : Prop :=
  ∀ s t : State, invariant s = true → s.fault ≠ some .internalState → step s = .next t →
    t.fault ≠ some .internalState

/-- R143, R202: the bring-up never raises `UNMAPPED`; that the clock-control words are no alias words and that the masks
share no bit are premises of the model's (log 18). -/
def Obligations.BringupIsNeverUnmapped : Prop :=
  ∀ s t : State, invariant s = true → seqPhase s = .running → clockWordsPlain s.cfg = true → MasksDisjoint s.cfg →
    resetRaised s = false → step s = .next t → t.fault = none

/-- R50, R56: every address THE BLOCK puts on the bus is word-aligned. -/
def Obligations.EveryBusAddressIsAligned : Prop :=
  ∀ s t : State, invariant s = true → step s = .next t →
    ∀ new, t.events = s.events ++ new →
      ∀ e ∈ new, match e with
        | .busR a _ => a.extractLsb' 0 2 = 0#2
        | .busW a _ => a.extractLsb' 0 2 = 0#2
        | .resp _ => True
end

