-- ==== Sys2Proof/Laws/Memory.lean ====
section
/-! SUPPORT. The memory operations keep the canonical form, and the laws of reading and writing bytes. -/

namespace Sys2Proof.Machine

variable {c : Config}

theorem memWfFrom_mono {lo hi : Nat} (m : Memory) (h : memWfFrom c hi m = true) (hlo : lo ≤ hi) :
    memWfFrom c lo m = true := by
  cases m with
  | nil => rfl
  | cons c rest =>
    obtain ⟨k, v⟩ := c
    simp only [memWfFrom, Bool.and_eq_true, decide_eq_true_eq] at h ⊢
    exact ⟨⟨⟨by omega, h.1.1.2⟩, h.1.2⟩, h.2⟩

/-- Canonical memory lists nothing below its bound. -/
theorem readByte_below {lo : Nat} {a : Nat} (m : Memory) (h : memWfFrom c lo m = true) (ha : a < lo) :
    readByte c m a = initByte c a := by
  induction m generalizing lo with
  | nil => rfl
  | cons c rest ih =>
    obtain ⟨k, v⟩ := c
    simp only [memWfFrom, Bool.and_eq_true, decide_eq_true_eq] at h
    have hk : k ≠ a := by omega
    simp only [readByte, if_neg hk]
    exact ih h.2 (by omega)

theorem writeByte_wfFrom {lo a : Nat} {v : Byte} (m : Memory) (h : memWfFrom c lo m = true) (hlo : lo ≤ a)
    (ha : a < 2 ^ 32) : memWfFrom c lo (writeByte c m a v) = true := by
  induction m generalizing lo with
  | nil =>
    simp only [writeByte]
    split
    · rfl
    · simp only [memWfFrom, Bool.and_eq_true, decide_eq_true_eq]
      exact ⟨⟨⟨hlo, ha⟩, ‹_›⟩, trivial⟩
  | cons c rest ih =>
    obtain ⟨k, w⟩ := c
    have h' := h
    simp only [memWfFrom, Bool.and_eq_true, decide_eq_true_eq] at h'
    simp only [writeByte]
    split
    · split
      · exact h
      · simp only [memWfFrom, Bool.and_eq_true, decide_eq_true_eq]
        exact ⟨⟨⟨hlo, ha⟩, ‹_›⟩, ⟨⟨⟨by omega, h'.1.1.2⟩, h'.1.2⟩, h'.2⟩⟩
    · split
      · subst_vars
        split
        · exact memWfFrom_mono _ h'.2 (by omega)
        · simp only [memWfFrom, Bool.and_eq_true, decide_eq_true_eq]
          exact ⟨⟨⟨hlo, ha⟩, ‹_›⟩, h'.2⟩
      · simp only [memWfFrom, Bool.and_eq_true, decide_eq_true_eq]
        exact ⟨h'.1, ih h'.2 (by omega)⟩

/-- A byte write keeps the canonical form. -/
theorem writeByte_wf {m : Memory} (h : m.wf c = true) {a : Nat} (ha : a < 2 ^ 32) (v : Byte) :
    Memory.wf (writeByte c m a v) c = true :=
  writeByte_wfFrom m h (Nat.zero_le _) ha

theorem byteAt_lt (a : Word) (k : Nat) : byteAt a k < 2 ^ 32 := (a + BitVec.ofNat 32 k).isLt

/-- A word write keeps the canonical form. -/
theorem writeWord_wf {m : Memory} (h : m.wf c = true) (a v : Word) : Memory.wf (writeWord c m a v) c = true := by
  unfold writeWord
  exact writeByte_wf (writeByte_wf (writeByte_wf (writeByte_wf h (byteAt_lt _ _) _) (byteAt_lt _ _) _)
    (byteAt_lt _ _) _) (byteAt_lt _ _) _

/-- The launch memory of the machine after reset is canonical. -/
theorem reset_memory_wf : State.reset.mem.wf State.reset.cfg = true := rfl

/-- A byte other than the one written reads as before. -/
theorem readByte_writeByte_other (m : Memory) {a x : Nat} (v : Byte) (h : x ≠ a) :
    readByte c (writeByte c m a v) x = readByte c m x := by
  induction m with
  | nil =>
    simp only [writeByte]
    split
    · rfl
    · simp [readByte, Ne.symm h]
  | cons c rest ih =>
    obtain ⟨k, w⟩ := c
    simp only [writeByte]
    split
    · split
      · rfl
      · simp [readByte, Ne.symm h]
    · split
      · subst_vars
        split <;> simp [readByte, Ne.symm h]
      · simp only [readByte, ih]

theorem readByte_writeByte_sameFrom {lo a : Nat} (m : Memory) (h : memWfFrom c lo m = true) (v : Byte) :
    readByte c (writeByte c m a v) a = v := by
  induction m generalizing lo with
  | nil =>
    simp only [writeByte]
    split
    · simp [readByte, *]
    · simp [readByte]
  | cons c rest ih =>
    obtain ⟨k, w⟩ := c
    have h' := h
    simp only [memWfFrom, Bool.and_eq_true, decide_eq_true_eq] at h'
    simp only [writeByte]
    split
    · split
      · rename_i hlt hv
        have hk : k ≠ a := by omega
        simp only [readByte, if_neg hk]
        rw [readByte_below rest h'.2 (by omega), hv]
      · simp [readByte]
    · split
      · subst_vars
        split
        · rename_i hv
          rw [readByte_below rest h'.2 (by omega), hv]
        · simp [readByte]
      · have hk : k ≠ a := by omega
        simp only [readByte, if_neg hk]
        exact ih h'.2

/-- A byte just written reads back. -/
theorem readByte_writeByte_same {m : Memory} (h : m.wf c = true) (a : Nat) (v : Byte) :
    readByte c (writeByte c m a v) a = v :=
  readByte_writeByte_sameFrom m h v

/-- The four bytes of a word have different addresses. -/
theorem byteAt_ne (a : Word) {j k : Nat} (hj : j < 4) (hk : k < 4) (h : j ≠ k) : byteAt a j ≠ byteAt a k := by
  simp only [byteAt, BitVec.toNat_add, BitVec.toNat_ofNat]
  have := a.isLt
  omega

end Sys2Proof.Machine
end

