-- ==== Sys2Proof/Laws/State.lean ====
section
/-! SUPPORT. One lemma per field per named update of the state, so that no later proof unfolds an update. -/

namespace Sys2Proof.Machine

@[simp] theorem emit_seqState (e : Event) (s : State) : (emit e s).seqState = s.seqState := rfl
@[simp] theorem emit_seqIssued (e : Event) (s : State) : (emit e s).seqIssued = s.seqIssued := rfl
@[simp] theorem emit_settleCnt (e : Event) (s : State) : (emit e s).settleCnt = s.settleCnt := rfl
@[simp] theorem emit_clockHz (e : Event) (s : State) : (emit e s).clockHz = s.clockHz := rfl
@[simp] theorem emit_engPhase (e : Event) (s : State) : (emit e s).engPhase = s.engPhase := rfl
@[simp] theorem emit_engOwner (e : Event) (s : State) : (emit e s).engOwner = s.engOwner := rfl
@[simp] theorem emit_engOp (e : Event) (s : State) : (emit e s).engOp = s.engOp := rfl
@[simp] theorem emit_engAddr (e : Event) (s : State) : (emit e s).engAddr = s.engAddr := rfl
@[simp] theorem emit_engBit (e : Event) (s : State) : (emit e s).engBit = s.engBit := rfl
@[simp] theorem emit_engVal (e : Event) (s : State) : (emit e s).engVal = s.engVal := rfl
@[simp] theorem emit_engAlias (e : Event) (s : State) : (emit e s).engAlias = s.engAlias := rfl
@[simp] theorem emit_engWdata (e : Event) (s : State) : (emit e s).engWdata = s.engWdata := rfl
@[simp] theorem emit_engTmp (e : Event) (s : State) : (emit e s).engTmp = s.engTmp := rfl
@[simp] theorem emit_engResult (e : Event) (s : State) : (emit e s).engResult = s.engResult := rfl
@[simp] theorem emit_engDone (e : Event) (s : State) : (emit e s).engDone = s.engDone := rfl
@[simp] theorem emit_clientBusy (e : Event) (s : State) : (emit e s).clientBusy = s.clientBusy := rfl
@[simp] theorem emit_clientOp (e : Event) (s : State) : (emit e s).clientOp = s.clientOp := rfl
@[simp] theorem emit_refused (e : Event) (s : State) : (emit e s).refused = s.refused := rfl
@[simp] theorem emit_fault (e : Event) (s : State) : (emit e s).fault = s.fault := rfl
@[simp] theorem emit_rsp (e : Event) (s : State) : (emit e s).rsp = s.rsp := rfl
@[simp] theorem emit_cfg (e : Event) (s : State) : (emit e s).cfg = s.cfg := rfl
@[simp] theorem emit_mem (e : Event) (s : State) : (emit e s).mem = s.mem := rfl
@[simp] theorem emit_draws (e : Event) (s : State) : (emit e s).draws = s.draws := rfl
@[simp] theorem emit_drawCount (e : Event) (s : State) : (emit e s).drawCount = s.drawCount := rfl
@[simp] theorem emit_reqs (e : Event) (s : State) : (emit e s).reqs = s.reqs := rfl
@[simp] theorem emit_stimuli (e : Event) (s : State) : (emit e s).stimuli = s.stimuli := rfl
@[simp] theorem emit_events (e : Event) (s : State) : (emit e s).events = s.events ++ [e] := rfl

@[simp] theorem respond_seqState (v : Word) (s : State) : (respond v s).seqState = s.seqState := rfl
@[simp] theorem respond_seqIssued (v : Word) (s : State) : (respond v s).seqIssued = s.seqIssued := rfl
@[simp] theorem respond_settleCnt (v : Word) (s : State) : (respond v s).settleCnt = s.settleCnt := rfl
@[simp] theorem respond_clockHz (v : Word) (s : State) : (respond v s).clockHz = s.clockHz := rfl
@[simp] theorem respond_engPhase (v : Word) (s : State) : (respond v s).engPhase = s.engPhase := rfl
@[simp] theorem respond_engOwner (v : Word) (s : State) : (respond v s).engOwner = s.engOwner := rfl
@[simp] theorem respond_engOp (v : Word) (s : State) : (respond v s).engOp = s.engOp := rfl
@[simp] theorem respond_engAddr (v : Word) (s : State) : (respond v s).engAddr = s.engAddr := rfl
@[simp] theorem respond_engBit (v : Word) (s : State) : (respond v s).engBit = s.engBit := rfl
@[simp] theorem respond_engVal (v : Word) (s : State) : (respond v s).engVal = s.engVal := rfl
@[simp] theorem respond_engAlias (v : Word) (s : State) : (respond v s).engAlias = s.engAlias := rfl
@[simp] theorem respond_engWdata (v : Word) (s : State) : (respond v s).engWdata = s.engWdata := rfl
@[simp] theorem respond_engTmp (v : Word) (s : State) : (respond v s).engTmp = s.engTmp := rfl
@[simp] theorem respond_engResult (v : Word) (s : State) : (respond v s).engResult = s.engResult := rfl
@[simp] theorem respond_engDone (v : Word) (s : State) : (respond v s).engDone = s.engDone := rfl
@[simp] theorem respond_clientBusy (v : Word) (s : State) : (respond v s).clientBusy = false := rfl
@[simp] theorem respond_clientOp (v : Word) (s : State) : (respond v s).clientOp = s.clientOp := rfl
@[simp] theorem respond_refused (v : Word) (s : State) : (respond v s).refused = s.refused := rfl
@[simp] theorem respond_fault (v : Word) (s : State) : (respond v s).fault = s.fault := rfl
@[simp] theorem respond_rsp (v : Word) (s : State) : (respond v s).rsp = some v := rfl
@[simp] theorem respond_cfg (v : Word) (s : State) : (respond v s).cfg = s.cfg := rfl
@[simp] theorem respond_mem (v : Word) (s : State) : (respond v s).mem = s.mem := rfl
@[simp] theorem respond_draws (v : Word) (s : State) : (respond v s).draws = s.draws := rfl
@[simp] theorem respond_drawCount (v : Word) (s : State) : (respond v s).drawCount = s.drawCount := rfl
@[simp] theorem respond_reqs (v : Word) (s : State) : (respond v s).reqs = s.reqs := rfl
@[simp] theorem respond_stimuli (v : Word) (s : State) : (respond v s).stimuli = s.stimuli := rfl
@[simp] theorem respond_events (v : Word) (s : State) : (respond v s).events = s.events ++ [.resp v] := rfl

@[simp] theorem raiseRefuse_seqState (r : RefuseReason) (s : State) : (raiseRefuse r s).seqState = s.seqState := rfl
@[simp] theorem raiseRefuse_seqIssued (r : RefuseReason) (s : State) : (raiseRefuse r s).seqIssued = s.seqIssued := rfl
@[simp] theorem raiseRefuse_settleCnt (r : RefuseReason) (s : State) : (raiseRefuse r s).settleCnt = s.settleCnt := rfl
@[simp] theorem raiseRefuse_clockHz (r : RefuseReason) (s : State) : (raiseRefuse r s).clockHz = s.clockHz := rfl
@[simp] theorem raiseRefuse_engPhase (r : RefuseReason) (s : State) : (raiseRefuse r s).engPhase = s.engPhase := rfl
@[simp] theorem raiseRefuse_engOwner (r : RefuseReason) (s : State) : (raiseRefuse r s).engOwner = s.engOwner := rfl
@[simp] theorem raiseRefuse_engOp (r : RefuseReason) (s : State) : (raiseRefuse r s).engOp = s.engOp := rfl
@[simp] theorem raiseRefuse_engAddr (r : RefuseReason) (s : State) : (raiseRefuse r s).engAddr = s.engAddr := rfl
@[simp] theorem raiseRefuse_engBit (r : RefuseReason) (s : State) : (raiseRefuse r s).engBit = s.engBit := rfl
@[simp] theorem raiseRefuse_engVal (r : RefuseReason) (s : State) : (raiseRefuse r s).engVal = s.engVal := rfl
@[simp] theorem raiseRefuse_engAlias (r : RefuseReason) (s : State) : (raiseRefuse r s).engAlias = s.engAlias := rfl
@[simp] theorem raiseRefuse_engWdata (r : RefuseReason) (s : State) : (raiseRefuse r s).engWdata = s.engWdata := rfl
@[simp] theorem raiseRefuse_engTmp (r : RefuseReason) (s : State) : (raiseRefuse r s).engTmp = s.engTmp := rfl
@[simp] theorem raiseRefuse_engResult (r : RefuseReason) (s : State) : (raiseRefuse r s).engResult = s.engResult := rfl
@[simp] theorem raiseRefuse_engDone (r : RefuseReason) (s : State) : (raiseRefuse r s).engDone = s.engDone := rfl
@[simp] theorem raiseRefuse_clientBusy (r : RefuseReason) (s : State) : (raiseRefuse r s).clientBusy = s.clientBusy := rfl
@[simp] theorem raiseRefuse_clientOp (r : RefuseReason) (s : State) : (raiseRefuse r s).clientOp = s.clientOp := rfl
@[simp] theorem raiseRefuse_refused (r : RefuseReason) (s : State) : (raiseRefuse r s).refused = some r := rfl
@[simp] theorem raiseRefuse_fault (r : RefuseReason) (s : State) : (raiseRefuse r s).fault = s.fault := rfl
@[simp] theorem raiseRefuse_rsp (r : RefuseReason) (s : State) : (raiseRefuse r s).rsp = s.rsp := rfl
@[simp] theorem raiseRefuse_cfg (r : RefuseReason) (s : State) : (raiseRefuse r s).cfg = s.cfg := rfl
@[simp] theorem raiseRefuse_mem (r : RefuseReason) (s : State) : (raiseRefuse r s).mem = s.mem := rfl
@[simp] theorem raiseRefuse_draws (r : RefuseReason) (s : State) : (raiseRefuse r s).draws = s.draws := rfl
@[simp] theorem raiseRefuse_drawCount (r : RefuseReason) (s : State) : (raiseRefuse r s).drawCount = s.drawCount := rfl
@[simp] theorem raiseRefuse_reqs (r : RefuseReason) (s : State) : (raiseRefuse r s).reqs = s.reqs := rfl
@[simp] theorem raiseRefuse_stimuli (r : RefuseReason) (s : State) : (raiseRefuse r s).stimuli = s.stimuli := rfl
@[simp] theorem raiseRefuse_events (r : RefuseReason) (s : State) : (raiseRefuse r s).events = s.events := rfl

@[simp] theorem raiseFault_seqState (f : Fault) (s : State) : (raiseFault f s).seqState = s.seqState := rfl
@[simp] theorem raiseFault_seqIssued (f : Fault) (s : State) : (raiseFault f s).seqIssued = s.seqIssued := rfl
@[simp] theorem raiseFault_settleCnt (f : Fault) (s : State) : (raiseFault f s).settleCnt = s.settleCnt := rfl
@[simp] theorem raiseFault_clockHz (f : Fault) (s : State) : (raiseFault f s).clockHz = s.clockHz := rfl
@[simp] theorem raiseFault_engPhase (f : Fault) (s : State) : (raiseFault f s).engPhase = s.engPhase := rfl
@[simp] theorem raiseFault_engOwner (f : Fault) (s : State) : (raiseFault f s).engOwner = s.engOwner := rfl
@[simp] theorem raiseFault_engOp (f : Fault) (s : State) : (raiseFault f s).engOp = s.engOp := rfl
@[simp] theorem raiseFault_engAddr (f : Fault) (s : State) : (raiseFault f s).engAddr = s.engAddr := rfl
@[simp] theorem raiseFault_engBit (f : Fault) (s : State) : (raiseFault f s).engBit = s.engBit := rfl
@[simp] theorem raiseFault_engVal (f : Fault) (s : State) : (raiseFault f s).engVal = s.engVal := rfl
@[simp] theorem raiseFault_engAlias (f : Fault) (s : State) : (raiseFault f s).engAlias = s.engAlias := rfl
@[simp] theorem raiseFault_engWdata (f : Fault) (s : State) : (raiseFault f s).engWdata = s.engWdata := rfl
@[simp] theorem raiseFault_engTmp (f : Fault) (s : State) : (raiseFault f s).engTmp = s.engTmp := rfl
@[simp] theorem raiseFault_engResult (f : Fault) (s : State) : (raiseFault f s).engResult = s.engResult := rfl
@[simp] theorem raiseFault_engDone (f : Fault) (s : State) : (raiseFault f s).engDone = s.engDone := rfl
@[simp] theorem raiseFault_clientBusy (f : Fault) (s : State) : (raiseFault f s).clientBusy = s.clientBusy := rfl
@[simp] theorem raiseFault_clientOp (f : Fault) (s : State) : (raiseFault f s).clientOp = s.clientOp := rfl
@[simp] theorem raiseFault_refused (f : Fault) (s : State) : (raiseFault f s).refused = s.refused := rfl
@[simp] theorem raiseFault_fault (f : Fault) (s : State) : (raiseFault f s).fault = some f := rfl
@[simp] theorem raiseFault_rsp (f : Fault) (s : State) : (raiseFault f s).rsp = s.rsp := rfl
@[simp] theorem raiseFault_cfg (f : Fault) (s : State) : (raiseFault f s).cfg = s.cfg := rfl
@[simp] theorem raiseFault_mem (f : Fault) (s : State) : (raiseFault f s).mem = s.mem := rfl
@[simp] theorem raiseFault_draws (f : Fault) (s : State) : (raiseFault f s).draws = s.draws := rfl
@[simp] theorem raiseFault_drawCount (f : Fault) (s : State) : (raiseFault f s).drawCount = s.drawCount := rfl
@[simp] theorem raiseFault_reqs (f : Fault) (s : State) : (raiseFault f s).reqs = s.reqs := rfl
@[simp] theorem raiseFault_stimuli (f : Fault) (s : State) : (raiseFault f s).stimuli = s.stimuli := rfl
@[simp] theorem raiseFault_events (f : Fault) (s : State) : (raiseFault f s).events = s.events := rfl

@[simp] theorem afterDraw_seqState (s : State) : (afterDraw s).seqState = s.seqState := rfl
@[simp] theorem afterDraw_seqIssued (s : State) : (afterDraw s).seqIssued = s.seqIssued := rfl
@[simp] theorem afterDraw_settleCnt (s : State) : (afterDraw s).settleCnt = s.settleCnt := rfl
@[simp] theorem afterDraw_clockHz (s : State) : (afterDraw s).clockHz = s.clockHz := rfl
@[simp] theorem afterDraw_engPhase (s : State) : (afterDraw s).engPhase = s.engPhase := rfl
@[simp] theorem afterDraw_engOwner (s : State) : (afterDraw s).engOwner = s.engOwner := rfl
@[simp] theorem afterDraw_engOp (s : State) : (afterDraw s).engOp = s.engOp := rfl
@[simp] theorem afterDraw_engAddr (s : State) : (afterDraw s).engAddr = s.engAddr := rfl
@[simp] theorem afterDraw_engBit (s : State) : (afterDraw s).engBit = s.engBit := rfl
@[simp] theorem afterDraw_engVal (s : State) : (afterDraw s).engVal = s.engVal := rfl
@[simp] theorem afterDraw_engAlias (s : State) : (afterDraw s).engAlias = s.engAlias := rfl
@[simp] theorem afterDraw_engWdata (s : State) : (afterDraw s).engWdata = s.engWdata := rfl
@[simp] theorem afterDraw_engTmp (s : State) : (afterDraw s).engTmp = s.engTmp := rfl
@[simp] theorem afterDraw_engResult (s : State) : (afterDraw s).engResult = s.engResult := rfl
@[simp] theorem afterDraw_engDone (s : State) : (afterDraw s).engDone = s.engDone := rfl
@[simp] theorem afterDraw_clientBusy (s : State) : (afterDraw s).clientBusy = s.clientBusy := rfl
@[simp] theorem afterDraw_clientOp (s : State) : (afterDraw s).clientOp = s.clientOp := rfl
@[simp] theorem afterDraw_refused (s : State) : (afterDraw s).refused = s.refused := rfl
@[simp] theorem afterDraw_fault (s : State) : (afterDraw s).fault = s.fault := rfl
@[simp] theorem afterDraw_rsp (s : State) : (afterDraw s).rsp = s.rsp := rfl
@[simp] theorem afterDraw_cfg (s : State) : (afterDraw s).cfg = s.cfg := rfl
@[simp] theorem afterDraw_mem (s : State) : (afterDraw s).mem = s.mem := rfl
@[simp] theorem afterDraw_draws (s : State) : (afterDraw s).draws = s.draws.tail := rfl
@[simp] theorem afterDraw_drawCount (s : State) : (afterDraw s).drawCount = s.drawCount + 1 := rfl
@[simp] theorem afterDraw_reqs (s : State) : (afterDraw s).reqs = s.reqs := rfl
@[simp] theorem afterDraw_stimuli (s : State) : (afterDraw s).stimuli = s.stimuli := rfl
@[simp] theorem afterDraw_events (s : State) : (afterDraw s).events = s.events := rfl

@[simp] theorem storeWord_seqState (a v : Word) (s : State) : (storeWord a v s).seqState = s.seqState := rfl
@[simp] theorem storeWord_seqIssued (a v : Word) (s : State) : (storeWord a v s).seqIssued = s.seqIssued := rfl
@[simp] theorem storeWord_settleCnt (a v : Word) (s : State) : (storeWord a v s).settleCnt = s.settleCnt := rfl
@[simp] theorem storeWord_clockHz (a v : Word) (s : State) : (storeWord a v s).clockHz = s.clockHz := rfl
@[simp] theorem storeWord_engPhase (a v : Word) (s : State) : (storeWord a v s).engPhase = s.engPhase := rfl
@[simp] theorem storeWord_engOwner (a v : Word) (s : State) : (storeWord a v s).engOwner = s.engOwner := rfl
@[simp] theorem storeWord_engOp (a v : Word) (s : State) : (storeWord a v s).engOp = s.engOp := rfl
@[simp] theorem storeWord_engAddr (a v : Word) (s : State) : (storeWord a v s).engAddr = s.engAddr := rfl
@[simp] theorem storeWord_engBit (a v : Word) (s : State) : (storeWord a v s).engBit = s.engBit := rfl
@[simp] theorem storeWord_engVal (a v : Word) (s : State) : (storeWord a v s).engVal = s.engVal := rfl
@[simp] theorem storeWord_engAlias (a v : Word) (s : State) : (storeWord a v s).engAlias = s.engAlias := rfl
@[simp] theorem storeWord_engWdata (a v : Word) (s : State) : (storeWord a v s).engWdata = s.engWdata := rfl
@[simp] theorem storeWord_engTmp (a v : Word) (s : State) : (storeWord a v s).engTmp = s.engTmp := rfl
@[simp] theorem storeWord_engResult (a v : Word) (s : State) : (storeWord a v s).engResult = s.engResult := rfl
@[simp] theorem storeWord_engDone (a v : Word) (s : State) : (storeWord a v s).engDone = s.engDone := rfl
@[simp] theorem storeWord_clientBusy (a v : Word) (s : State) : (storeWord a v s).clientBusy = s.clientBusy := rfl
@[simp] theorem storeWord_clientOp (a v : Word) (s : State) : (storeWord a v s).clientOp = s.clientOp := rfl
@[simp] theorem storeWord_refused (a v : Word) (s : State) : (storeWord a v s).refused = s.refused := rfl
@[simp] theorem storeWord_fault (a v : Word) (s : State) : (storeWord a v s).fault = s.fault := rfl
@[simp] theorem storeWord_rsp (a v : Word) (s : State) : (storeWord a v s).rsp = s.rsp := rfl
@[simp] theorem storeWord_cfg (a v : Word) (s : State) : (storeWord a v s).cfg = s.cfg := rfl
@[simp] theorem storeWord_mem (a v : Word) (s : State) : (storeWord a v s).mem = writeWord s.cfg s.mem a v := rfl
@[simp] theorem storeWord_draws (a v : Word) (s : State) : (storeWord a v s).draws = s.draws := rfl
@[simp] theorem storeWord_drawCount (a v : Word) (s : State) : (storeWord a v s).drawCount = s.drawCount := rfl
@[simp] theorem storeWord_reqs (a v : Word) (s : State) : (storeWord a v s).reqs = s.reqs := rfl
@[simp] theorem storeWord_stimuli (a v : Word) (s : State) : (storeWord a v s).stimuli = s.stimuli := rfl
@[simp] theorem storeWord_events (a v : Word) (s : State) : (storeWord a v s).events = s.events := rfl

@[simp] theorem issue_seqState (o : Owner) (op : EngOp) (a : Word) (b : BitIndex) (v : Bool) (s : State) : (issue o op a b v s).seqState = s.seqState := rfl
@[simp] theorem issue_seqIssued (o : Owner) (op : EngOp) (a : Word) (b : BitIndex) (v : Bool) (s : State) : (issue o op a b v s).seqIssued = s.seqIssued := rfl
@[simp] theorem issue_settleCnt (o : Owner) (op : EngOp) (a : Word) (b : BitIndex) (v : Bool) (s : State) : (issue o op a b v s).settleCnt = s.settleCnt := rfl
@[simp] theorem issue_clockHz (o : Owner) (op : EngOp) (a : Word) (b : BitIndex) (v : Bool) (s : State) : (issue o op a b v s).clockHz = s.clockHz := rfl
@[simp] theorem issue_engPhase (o : Owner) (op : EngOp) (a : Word) (b : BitIndex) (v : Bool) (s : State) : (issue o op a b v s).engPhase = issuePhase s.cfg op a := rfl
@[simp] theorem issue_engOwner (o : Owner) (op : EngOp) (a : Word) (b : BitIndex) (v : Bool) (s : State) : (issue o op a b v s).engOwner = o := rfl
@[simp] theorem issue_engOp (o : Owner) (op : EngOp) (a : Word) (b : BitIndex) (v : Bool) (s : State) : (issue o op a b v s).engOp = op := rfl
@[simp] theorem issue_engAddr (o : Owner) (op : EngOp) (a : Word) (b : BitIndex) (v : Bool) (s : State) : (issue o op a b v s).engAddr = a := rfl
@[simp] theorem issue_engBit (o : Owner) (op : EngOp) (a : Word) (b : BitIndex) (v : Bool) (s : State) : (issue o op a b v s).engBit = b := rfl
@[simp] theorem issue_engVal (o : Owner) (op : EngOp) (a : Word) (b : BitIndex) (v : Bool) (s : State) : (issue o op a b v s).engVal = v := rfl
@[simp] theorem issue_engAlias (o : Owner) (op : EngOp) (a : Word) (b : BitIndex) (v : Bool) (s : State) : (issue o op a b v s).engAlias = if inWindow s.cfg a then aliasAddr s.cfg a b else s.engAlias := rfl
@[simp] theorem issue_engWdata (o : Owner) (op : EngOp) (a : Word) (b : BitIndex) (v : Bool) (s : State) : (issue o op a b v s).engWdata = if inWindow s.cfg a && op != .rd then issueWdata op v else s.engWdata := rfl
@[simp] theorem issue_engTmp (o : Owner) (op : EngOp) (a : Word) (b : BitIndex) (v : Bool) (s : State) : (issue o op a b v s).engTmp = s.engTmp := rfl
@[simp] theorem issue_engResult (o : Owner) (op : EngOp) (a : Word) (b : BitIndex) (v : Bool) (s : State) : (issue o op a b v s).engResult = s.engResult := rfl
@[simp] theorem issue_engDone (o : Owner) (op : EngOp) (a : Word) (b : BitIndex) (v : Bool) (s : State) : (issue o op a b v s).engDone = s.engDone := rfl
@[simp] theorem issue_clientBusy (o : Owner) (op : EngOp) (a : Word) (b : BitIndex) (v : Bool) (s : State) : (issue o op a b v s).clientBusy = s.clientBusy := rfl
@[simp] theorem issue_clientOp (o : Owner) (op : EngOp) (a : Word) (b : BitIndex) (v : Bool) (s : State) : (issue o op a b v s).clientOp = s.clientOp := rfl
@[simp] theorem issue_refused (o : Owner) (op : EngOp) (a : Word) (b : BitIndex) (v : Bool) (s : State) : (issue o op a b v s).refused = s.refused := rfl
@[simp] theorem issue_fault (o : Owner) (op : EngOp) (a : Word) (b : BitIndex) (v : Bool) (s : State) : (issue o op a b v s).fault = s.fault := rfl
@[simp] theorem issue_rsp (o : Owner) (op : EngOp) (a : Word) (b : BitIndex) (v : Bool) (s : State) : (issue o op a b v s).rsp = s.rsp := rfl
@[simp] theorem issue_cfg (o : Owner) (op : EngOp) (a : Word) (b : BitIndex) (v : Bool) (s : State) : (issue o op a b v s).cfg = s.cfg := rfl
@[simp] theorem issue_mem (o : Owner) (op : EngOp) (a : Word) (b : BitIndex) (v : Bool) (s : State) : (issue o op a b v s).mem = s.mem := rfl
@[simp] theorem issue_draws (o : Owner) (op : EngOp) (a : Word) (b : BitIndex) (v : Bool) (s : State) : (issue o op a b v s).draws = s.draws := rfl
@[simp] theorem issue_drawCount (o : Owner) (op : EngOp) (a : Word) (b : BitIndex) (v : Bool) (s : State) : (issue o op a b v s).drawCount = s.drawCount := rfl
@[simp] theorem issue_reqs (o : Owner) (op : EngOp) (a : Word) (b : BitIndex) (v : Bool) (s : State) : (issue o op a b v s).reqs = s.reqs := rfl
@[simp] theorem issue_stimuli (o : Owner) (op : EngOp) (a : Word) (b : BitIndex) (v : Bool) (s : State) : (issue o op a b v s).stimuli = s.stimuli := rfl
@[simp] theorem issue_events (o : Owner) (op : EngOp) (a : Word) (b : BitIndex) (v : Bool) (s : State) : (issue o op a b v s).events = s.events := rfl

@[simp] theorem absorb_seqState (s : State) : (absorb s).seqState = s.seqState := rfl
@[simp] theorem absorb_seqIssued (s : State) : (absorb s).seqIssued = s.seqIssued := rfl
@[simp] theorem absorb_settleCnt (s : State) : (absorb s).settleCnt = s.settleCnt := rfl
@[simp] theorem absorb_clockHz (s : State) : (absorb s).clockHz = s.clockHz := rfl
@[simp] theorem absorb_engPhase (s : State) : (absorb s).engPhase = s.engPhase := rfl
@[simp] theorem absorb_engOwner (s : State) : (absorb s).engOwner = s.engOwner := rfl
@[simp] theorem absorb_engOp (s : State) : (absorb s).engOp = s.engOp := rfl
@[simp] theorem absorb_engAddr (s : State) : (absorb s).engAddr = s.engAddr := rfl
@[simp] theorem absorb_engBit (s : State) : (absorb s).engBit = s.engBit := rfl
@[simp] theorem absorb_engVal (s : State) : (absorb s).engVal = s.engVal := rfl
@[simp] theorem absorb_engAlias (s : State) : (absorb s).engAlias = s.engAlias := rfl
@[simp] theorem absorb_engWdata (s : State) : (absorb s).engWdata = s.engWdata := rfl
@[simp] theorem absorb_engTmp (s : State) : (absorb s).engTmp = s.engTmp := rfl
@[simp] theorem absorb_engResult (s : State) : (absorb s).engResult = s.engResult := rfl
@[simp] theorem absorb_engDone (s : State) : (absorb s).engDone = s.engDone := rfl
@[simp] theorem absorb_clientBusy (s : State) : (absorb s).clientBusy = s.clientBusy := rfl
@[simp] theorem absorb_clientOp (s : State) : (absorb s).clientOp = s.clientOp := rfl
@[simp] theorem absorb_refused (s : State) : (absorb s).refused = s.refused := rfl
@[simp] theorem absorb_fault (s : State) : (absorb s).fault = s.fault := rfl
@[simp] theorem absorb_rsp (s : State) : (absorb s).rsp = none := rfl
@[simp] theorem absorb_cfg (s : State) : (absorb s).cfg = s.cfg := rfl
@[simp] theorem absorb_mem (s : State) : (absorb s).mem = (stimulus s).writes.foldl (envWrite s.cfg) s.mem := rfl
@[simp] theorem absorb_draws (s : State) : (absorb s).draws = s.draws := rfl
@[simp] theorem absorb_drawCount (s : State) : (absorb s).drawCount = s.drawCount := rfl
@[simp] theorem absorb_reqs (s : State) : (absorb s).reqs = s.reqs ++ (stimulus s).req.toList := rfl
@[simp] theorem absorb_stimuli (s : State) : (absorb s).stimuli = s.stimuli.tail := rfl
@[simp] theorem absorb_events (s : State) : (absorb s).events = s.events := rfl

@[simp] theorem blockReset_seqState (s : State) : (blockReset s).seqState = 0 := rfl
@[simp] theorem blockReset_seqIssued (s : State) : (blockReset s).seqIssued = false := rfl
@[simp] theorem blockReset_settleCnt (s : State) : (blockReset s).settleCnt = 0 := rfl
@[simp] theorem blockReset_clockHz (s : State) : (blockReset s).clockHz = none := rfl
@[simp] theorem blockReset_engPhase (s : State) : (blockReset s).engPhase = .idle := rfl
@[simp] theorem blockReset_engOwner (s : State) : (blockReset s).engOwner = .client := rfl
@[simp] theorem blockReset_engOp (s : State) : (blockReset s).engOp = .rd := rfl
@[simp] theorem blockReset_engAddr (s : State) : (blockReset s).engAddr = 0 := rfl
@[simp] theorem blockReset_engBit (s : State) : (blockReset s).engBit = 0 := rfl
@[simp] theorem blockReset_engVal (s : State) : (blockReset s).engVal = false := rfl
@[simp] theorem blockReset_engAlias (s : State) : (blockReset s).engAlias = 0 := rfl
@[simp] theorem blockReset_engWdata (s : State) : (blockReset s).engWdata = 0 := rfl
@[simp] theorem blockReset_engTmp (s : State) : (blockReset s).engTmp = 0 := rfl
@[simp] theorem blockReset_engResult (s : State) : (blockReset s).engResult = false := rfl
@[simp] theorem blockReset_engDone (s : State) : (blockReset s).engDone = false := rfl
@[simp] theorem blockReset_clientBusy (s : State) : (blockReset s).clientBusy = false := rfl
@[simp] theorem blockReset_clientOp (s : State) : (blockReset s).clientOp = none := rfl
@[simp] theorem blockReset_refused (s : State) : (blockReset s).refused = s.refused := rfl
@[simp] theorem blockReset_fault (s : State) : (blockReset s).fault = s.fault := rfl
@[simp] theorem blockReset_rsp (s : State) : (blockReset s).rsp = none := rfl
@[simp] theorem blockReset_cfg (s : State) : (blockReset s).cfg = s.cfg := rfl
@[simp] theorem blockReset_mem (s : State) : (blockReset s).mem = s.mem := rfl
@[simp] theorem blockReset_draws (s : State) : (blockReset s).draws = s.draws := rfl
@[simp] theorem blockReset_drawCount (s : State) : (blockReset s).drawCount = s.drawCount := rfl
@[simp] theorem blockReset_reqs (s : State) : (blockReset s).reqs = s.reqs.tail := rfl
@[simp] theorem blockReset_stimuli (s : State) : (blockReset s).stimuli = s.stimuli := rfl
@[simp] theorem blockReset_events (s : State) : (blockReset s).events = s.events := rfl

end Sys2Proof.Machine
end

