-- ==== Sys2Proof/Laws/Ops.lean ====
section
/-! SUPPORT. For each shared operation, what it can do, said once. -/

namespace Sys2Proof.Machine

/-- A bus read that succeeds: an alias word's draw and bit, a volatile word's draw, or the memory's word (R52). -/
theorem busRead_cases {a v : Word} {s t : State} (h : busRead a s = .ok (v, t)) :
    (inAliasWindow s.cfg a = true ∧ isMapped s.cfg (aliasDecode s.cfg a).1 = true
      ∧ v = aliasReadWord (nextDraw s) (aliasReadBit s (aliasDecode s.cfg a).1 (aliasDecode s.cfg a).2)
      ∧ t = emit (.busR a v) (afterDraw s))
    ∨ (inAliasWindow s.cfg a = false ∧ isMapped s.cfg a = true ∧ isVolatile s.cfg a = true
      ∧ v = nextDraw s ∧ t = emit (.busR a v) (afterDraw s))
    ∨ (inAliasWindow s.cfg a = false ∧ isMapped s.cfg a = true ∧ isVolatile s.cfg a = false
      ∧ v = memWord s a ∧ t = emit (.busR a v) s) := by
  simp only [busRead] at h
  split at h
  · split at h
    · simp only [Except.ok.injEq, Prod.mk.injEq] at h
      obtain ⟨rfl, rfl⟩ := h
      exact .inl ⟨‹_›, ‹_›, rfl, rfl⟩
    · cases h
  · split at h
    · split at h <;> (simp only [Except.ok.injEq, Prod.mk.injEq] at h; obtain ⟨rfl, rfl⟩ := h)
      · exact .inr (.inl ⟨Bool.eq_false_of_not_eq_true ‹_›, ‹_›, ‹_›, rfl, rfl⟩)
      · exact .inr (.inr ⟨Bool.eq_false_of_not_eq_true ‹_›, ‹_›, Bool.eq_false_of_not_eq_true ‹_›, rfl, rfl⟩)
    · cases h

/-- A bus read changes nothing but the draws and the events (R59: no read changes memory). -/
theorem busRead_frame {a v : Word} {s t : State} (h : busRead a s = .ok (v, t)) :
    t = { s with draws := t.draws, drawCount := t.drawCount, events := s.events ++ [.busR a v] } := by
  rcases busRead_cases h with ⟨-, -, -, rfl⟩ | ⟨-, -, -, -, rfl⟩ | ⟨-, -, -, -, rfl⟩ <;> rfl

/-- A bus write that succeeds: one bit of an alias word's target, or the word (R53). -/
theorem busWrite_cases {a v : Word} {s t : State} (h : busWrite a v s = .ok t) :
    (inAliasWindow s.cfg a = true ∧ isMapped s.cfg (aliasDecode s.cfg a).1 = true
      ∧ t = emit (.busW a v) (storeWord (aliasDecode s.cfg a).1
          (putBit (memWord s (aliasDecode s.cfg a).1) (aliasDecode s.cfg a).2 (v.getLsbD 0)) s))
    ∨ (inAliasWindow s.cfg a = false ∧ isMapped s.cfg a = true ∧ t = emit (.busW a v) (storeWord a v s)) := by
  simp only [busWrite] at h
  split at h
  · split at h
    · cases h; exact .inl ⟨‹_›, ‹_›, rfl⟩
    · cases h
  · split at h
    · cases h; exact .inr ⟨Bool.eq_false_of_not_eq_true ‹_›, ‹_›, rfl⟩
    · cases h

/-- A bus write changes nothing but one word of memory and the events. -/
theorem busWrite_frame {a v : Word} {s t : State} (h : busWrite a v s = .ok t) :
    t = { s with mem := t.mem, events := s.events ++ [.busW a v] } := by
  rcases busWrite_cases h with ⟨-, -, rfl⟩ | ⟨-, -, rfl⟩ <;> rfl

/-- A bus write keeps memory canonical. -/
theorem busWrite_memory_wf {a v : Word} {s t : State} (h : busWrite a v s = .ok t) (hm : s.mem.wf s.cfg = true) :
    t.mem.wf t.cfg = true := by
  rcases busWrite_cases h with ⟨-, -, rfl⟩ | ⟨-, -, rfl⟩ <;> exact writeWord_wf hm _ _

/-- The only fault of a bus transaction is `UNMAPPED` (R61). -/
theorem busRead_error {a : Word} {s : State} {f : Fault} (h : busRead a s = .error f) : f = .unmapped := by
  simp only [busRead] at h
  split at h <;> split at h <;> first | (split at h <;> cases h) | (cases h; rfl) | cases h

/-- The only fault of a bus transaction is `UNMAPPED` (R61). -/
theorem busWrite_error {a v : Word} {s : State} {f : Fault} (h : busWrite a v s = .error f) : f = .unmapped := by
  simp only [busWrite] at h
  split at h <;> split at h <;> cases h <;> rfl

/-- Completion of the client's operation responds; of the sequencer's, sets `eng_done` (R107). -/
theorem complete_cases (s : State) :
    (s.engOwner = .client ∧ complete s = { s with engPhase := .idle, clientBusy := false
                                                  rsp := some (completionWord s)
                                                  events := s.events ++ [.resp (completionWord s)] })
    ∨ (s.engOwner = .seq ∧ complete s = { s with engPhase := .idle, engDone := true }) := by
  unfold complete
  cases h : s.engOwner
  · exact .inl ⟨rfl, rfl⟩
  · exact .inr ⟨rfl, rfl⟩

/-- Entering `S_STABLE` responds to `INITCLK`; entering another state only moves there (R164). -/
theorem enter_cases (q : SeqState) (s : State) :
    (q = .stable ∧ enter q s = { s with seqState := 0x20#6, clientBusy := false, rsp := some 0
                                        events := s.events ++ [.resp 0] })
    ∨ (q ≠ .stable ∧ enter q s = { s with seqState := seqCode q }) := by
  cases q
  case stable => exact .inl ⟨rfl, rfl⟩
  all_goals exact .inr ⟨nofun, rfl⟩

/-- The environment's own changes keep memory canonical (R63). -/
theorem envWrite_wf {c : Config} {m : Memory} (h : m.wf c = true) (p : Word × Word) :
    Memory.wf (envWrite c m p) c = true := by
  unfold envWrite
  split
  · exact writeWord_wf h _ _
  · exact h

theorem absorb_memory_wf {s : State} (h : s.mem.wf s.cfg = true) : (absorb s).mem.wf s.cfg = true := by
  have key : ∀ (l : List (Word × Word)) (m : Memory), Memory.wf m s.cfg = true →
      Memory.wf (l.foldl (envWrite s.cfg) m) s.cfg = true := by
    intro l
    induction l with
    | nil => exact fun m hm => hm
    | cons p l ih => exact fun m hm => ih _ (envWrite_wf hm p)
  exact key _ _ h

/-- In a quiet environment a step starts from the state itself, the old response gone. -/
theorem absorb_of_quiet {s : State} (h : s.stimuli = []) : absorb s = { s with rsp := none } := by
  cases s
  simp_all [absorb, stimulus]

/-- In a quiet environment no step is a reset. -/
theorem resetRaised_of_quiet {s : State} (h : s.stimuli = []) : resetRaised s = false := by
  simp [resetRaised, stimulus, h]

/-- Every CBS state is the state of its code (R141). -/
@[simp] theorem seqOfCode_seqCode (q : SeqState) : seqOfCode (seqCode q) = some q := by cases q <;> rfl

/-- A code that has a CBS state is that state's code (R141). -/
theorem seqCode_of_seqOfCode {c : BitVec 6} {q : SeqState} (h : seqOfCode c = some q) : c = seqCode q := by
  revert q
  revert c
  decide +kernel

end Sys2Proof.Machine
end

