-- ==== Sys2Proof/Laws/Words.lean ====
section
/-! SUPPORT. Reading and writing a word of memory, and one bit of a word (`20_memory.md` R53, R55; `40_bit_access.md`
R106). -/

namespace Sys2Proof.Machine

variable {c : Config}

/-- A word write leaves every byte outside the word as it was. -/
theorem readByte_writeWord_other (m : Memory) (a v : Word) {x : Nat} (h0 : x ≠ byteAt a 0) (h1 : x ≠ byteAt a 1)
    (h2 : x ≠ byteAt a 2) (h3 : x ≠ byteAt a 3) : readByte c (writeWord c m a v) x = readByte c m x := by
  unfold writeWord
  rw [readByte_writeByte_other _ _ h3, readByte_writeByte_other _ _ h2, readByte_writeByte_other _ _ h1,
    readByte_writeByte_other _ _ h0]

theorem bytes_of_word (v : Word) :
    v.extractLsb' 24 8 ++ v.extractLsb' 16 8 ++ v.extractLsb' 8 8 ++ v.extractLsb' 0 8 = v := by
  apply BitVec.eq_of_getLsbD_eq
  intro i hi
  simp only [BitVec.getLsbD_append, BitVec.getLsbD_extractLsb']
  split
  · simp_all
  · split
    · have : i - 8 < 8 := by omega
      simp [this, show 8 + (i - 8) = i by omega]
    · split
      · have : i - 8 - 8 < 8 := by omega
        simp [this, show 16 + (i - 8 - 8) = i by omega]
      · have : i - 8 - 8 - 8 < 8 := by omega
        simp [this, show 24 + (i - 8 - 8 - 8) = i by omega]

/-- A word just written reads back. -/
theorem readWord_writeWord_same {m : Memory} (h : m.wf c = true) (a v : Word) : readWord c (writeWord c m a v) a = v := by
  have w0 := writeByte_wf h (byteAt_lt a 0) (v.extractLsb' 0 8)
  have w1 := writeByte_wf w0 (byteAt_lt a 1) (v.extractLsb' 8 8)
  have w2 := writeByte_wf w1 (byteAt_lt a 2) (v.extractLsb' 16 8)
  have ne : ∀ j k : Nat, j < 4 → k < 4 → j ≠ k → byteAt a j ≠ byteAt a k := fun _ _ hj hk hn => byteAt_ne a hj hk hn
  unfold readWord writeWord
  rw [readByte_writeByte_same w2,
    readByte_writeByte_other _ _ (ne 2 3 (by decide) (by decide) (by decide)), readByte_writeByte_same w1,
    readByte_writeByte_other _ _ (ne 1 3 (by decide) (by decide) (by decide)),
    readByte_writeByte_other _ _ (ne 1 2 (by decide) (by decide) (by decide)), readByte_writeByte_same w0,
    readByte_writeByte_other _ _ (ne 0 3 (by decide) (by decide) (by decide)),
    readByte_writeByte_other _ _ (ne 0 2 (by decide) (by decide) (by decide)),
    readByte_writeByte_other _ _ (ne 0 1 (by decide) (by decide) (by decide)), readByte_writeByte_same h]
  exact bytes_of_word v

theorem bitMask_getLsbD (b : BitIndex) (i : Nat) (hi : i < 32) :
    (bitMask b).getLsbD i = decide (i = b.toNat) := by
  have hb : b.toNat < 32 := b.isLt
  rw [bitMask, BitVec.getLsbD_shiftLeft, BitVec.getLsbD_one, Bool.eq_iff_iff]
  simp only [hi, decide_true, Bool.true_and, Bool.and_eq_true, Bool.not_eq_true', decide_eq_false_iff_not,
    decide_eq_true_eq]
  omega

/-- The set half of a direct access sets its bit and leaves the others (R106). -/
theorem bitOf_setBitIn (w : Word) (b j : BitIndex) : bitOf (setBitIn w b) j = if j = b then true else bitOf w j := by
  have hj : j.toNat < 32 := j.isLt
  simp only [bitOf, setBitIn, BitVec.getLsbD_or, bitMask_getLsbD b _ hj, BitVec.toNat_inj]
  split <;> simp_all

/-- The clear half of a direct access clears its bit and leaves the others (R106). -/
theorem bitOf_clearBitIn (w : Word) (b j : BitIndex) :
    bitOf (clearBitIn w b) j = if j = b then false else bitOf w j := by
  have hj : j.toNat < 32 := j.isLt
  simp only [bitOf, clearBitIn, BitVec.getLsbD_and, BitVec.getLsbD_not, hj, bitMask_getLsbD b _ hj, BitVec.toNat_inj]
  split <;> simp_all

theorem putBit_eq (w : Word) (b : BitIndex) (v : Bool) :
    putBit w b v = if v then clearBitIn w b ||| bitMask b else clearBitIn w b := by
  cases v <;> simp [putBit, bitWord, bitMask]

/-- An alias write makes its bit the value and leaves the others (R53). -/
theorem bitOf_putBit (w : Word) (b j : BitIndex) (v : Bool) :
    bitOf (putBit w b v) j = if j = b then v else bitOf w j := by
  rw [putBit_eq]
  cases v
  · simpa using bitOf_clearBitIn w b j
  · have h := bitOf_setBitIn (clearBitIn w b) b j
    rw [bitOf_clearBitIn] at h
    simp only [setBitIn] at h
    simp only [if_true, h]
    split <;> rfl

end Sys2Proof.Machine
end

