-- ==== Sys2Proof/Laws/Bus.lean ====
section
/-! SUPPORT. The bus transactions in the terms of the statements: a read is `answer`, a write is `WordWritten`, the
environment changes only the words it may (`20_memory.md` R52, R53, R63). -/

namespace Sys2Proof.Machine

/-! ### Taking draws -/

@[simp] theorem skipDraws_zero (s : State) : skipDraws 0 s = s := rfl

theorem skipDraws_add (m n : Nat) (s : State) : skipDraws m (skipDraws n s) = skipDraws (n + m) s := by
  simp [skipDraws, Nat.add_assoc]

theorem afterDraw_eq_skipDraws (s : State) : afterDraw s = skipDraws 1 s := by
  simp [afterDraw, skipDraws, List.drop_one]

/-! ### A read -/

/-- What a bus read answers depends on the configuration, the memory and the draws only. -/
theorem answer_congr {s t : State} (a : Word) (hc : t.cfg = s.cfg) (hm : t.mem = s.mem) (hd : t.draws = s.draws)
    (hn : t.drawCount = s.drawCount) : answer t a = answer s a := by
  cases s; cases t; subst hc hm hd hn; rfl

theorem engineBit_congr {s t : State} (a : Word) (b : BitIndex) (hc : t.cfg = s.cfg) (hm : t.mem = s.mem)
    (hd : t.draws = s.draws) (hn : t.drawCount = s.drawCount) : engineBit t a b = engineBit s a b := by
  cases s; cases t; subst hc hm hd hn; rfl

/-- A plain word's read answers what memory holds and takes no draw (R52). -/
theorem answer_plain {s : State} {a : Word} (h : PlainWord s.cfg a) : answer s a = memWord s a := by
  simp [answer, h.1, h.2]

theorem drawsOf_plain {c : Config} {a : Word} (h : PlainWord c a) : drawsOf c a = 0 := by simp [drawsOf, h.1, h.2]

/-- A bus read of a MAPPED target answers, records the event and takes the answer's draws (R52, R61). -/
theorem busRead_answer {a : Word} {s : State} (h : isMapped s.cfg (targetWord s.cfg a) = true) :
    busRead a s = .ok (answer s a, emit (.busR a (answer s a)) (skipDraws (drawsOf s.cfg a) s)) := by
  cases hw : inAliasWindow s.cfg a
  · cases hv : isVolatile s.cfg a <;>
      simp_all [busRead, targetWord, answer, drawsOf, afterDraw_eq_skipDraws]
  · have e : ~~~1#32 = 0xFFFFFFFE#32 := by decide
    simp_all [busRead, targetWord, answer, drawsOf, afterDraw_eq_skipDraws, aliasReadWord, aliasReadBit, bitWord, bitOf]

/-- Bit 0 of an alias word's answer is the aliased bit (R52, R115). -/
theorem answer_alias_bit {s : State} {a : Word} (h : inAliasWindow s.cfg a = true) :
    (answer s a).getLsbD 0 =
      (if isVolatile s.cfg (aliasDecode s.cfg a).1 then (nextDraw s).getLsbD 0
        else (memWord s (aliasDecode s.cfg a).1).getLsbD (aliasDecode s.cfg a).2.toNat) := by
  simp only [answer, h, if_true, BitVec.getLsbD_or, BitVec.getLsbD_and]
  split <;> split <;> simp_all

/-! ### A write -/

/-- A bus write of a MAPPED target happens, records the event, and in canonical memory writes just that (R53, R61). -/
theorem busWrite_written {a v : Word} {s : State} (h : isMapped s.cfg (targetWord s.cfg a) = true) :
    ∃ t, busWrite a v s = .ok t ∧ t = { s with mem := t.mem, events := s.events ++ [.busW a v] }
      ∧ (s.mem.wf s.cfg = true → t.mem.wf t.cfg = true ∧ WordWritten a v s t) := by
  have hok : ∃ t, busWrite a v s = .ok t := by
    cases hw : inAliasWindow s.cfg a <;> simp_all [busWrite, targetWord]
  obtain ⟨t, ht⟩ := hok
  refine ⟨t, ht, busWrite_frame ht, fun hm => ⟨busWrite_memory_wf ht hm, ?_⟩⟩
  rcases busWrite_cases ht with ⟨hw, -, rfl⟩ | ⟨hw, -, rfl⟩
  · simp only [WordWritten, hw, if_true]
    refine ⟨fun j => ?_, fun x hx => ?_⟩
    · simp only [memWord, emit_mem, emit_cfg, storeWord_mem, storeWord_cfg, readWord_writeWord_same hm, bitOf_putBit]
    · simp only [memByte, emit_mem, emit_cfg, storeWord_mem, storeWord_cfg,
        readByte_writeWord_other _ _ _ hx.1 hx.2.1 hx.2.2.1 hx.2.2.2]
  · simp only [WordWritten, hw, Bool.false_eq_true, if_false]
    refine ⟨?_, fun x hx => ?_⟩
    · simp only [memWord, emit_mem, emit_cfg, storeWord_mem, storeWord_cfg, readWord_writeWord_same hm]
    · simp only [memByte, emit_mem, emit_cfg, storeWord_mem, storeWord_cfg,
        readByte_writeWord_other _ _ _ hx.1 hx.2.1 hx.2.2.1 hx.2.2.2]

theorem SameOutside.trans {a : Word} {s t u : State} (h : SameOutside a s t) (h' : SameOutside a t u) :
    SameOutside a s u := fun x hx => (h' x hx).trans (h x hx)

/-- A write of the word with one bit changed changes that bit of a word that is no alias word (R106). -/
theorem WordWritten.oneBit {a v : Word} {b : BitIndex} {w : Bool} {s t : State} (h : WordWritten a v s t)
    (hw : inAliasWindow s.cfg a = false) (hv : ∀ j, bitOf v j = if j = b then w else bitOf (memWord s a) j) :
    OneBitChanged a b w s t := by
  simp only [WordWritten, hw, Bool.false_eq_true, if_false] at h
  exact ⟨fun j => by rw [h.1]; exact hv j, h.2⟩

/-- Writing the same word twice, or another before it, leaves what the last write leaves (R53). -/
theorem WordWritten.trans {a v v' : Word} {s t u : State} (hc : t.cfg = s.cfg) (h : WordWritten a v s t)
    (h' : WordWritten a v' t u) : WordWritten a v' s u := by
  unfold WordWritten at *
  rw [hc] at h'
  split at h <;> rename_i hw
  · simp only [hw, if_true] at h' ⊢
    refine ⟨fun j => ?_, h.2.trans h'.2⟩
    rw [h'.1, h.1]
    split <;> rfl
  · simp only [hw] at h' ⊢
    exact ⟨h'.1, h.2.trans h'.2⟩

/-! ### The environment's own changes -/

/-- The environment's changes leave every byte but those of the words it may change (R63; log 20). -/
theorem readByte_envWrite_other {c : Config} (m : Memory) (p : Word × Word) {x : Nat} (h : OutsideEnvWords c x) :
    readByte c (envWrite c m p) x = readByte c m x := by
  unfold envWrite
  split
  · rename_i hp
    simp only [Bool.and_eq_true] at hp
    have ho := h p.1 hp.1 hp.2
    exact readByte_writeWord_other _ _ _ ho.1 ho.2.1 ho.2.2.1 ho.2.2.2
  · rfl

/-! ### Issue -/

/-- An operation is issued in a phase that fits it (R105). -/
theorem issue_phaseFits (o : Owner) (op : EngOp) (a : Word) (b : BitIndex) (v : Bool) (s : State) :
    phaseFits (issue o op a b v s) = true := by
  cases hw : inWindow s.cfg a <;> cases op <;> simp [phaseFits, issue, issuePhase, hw]

end Sys2Proof.Machine
end

