-- ==== Sys2Proof/Laws/Engine.lean ====
section
/-! SUPPORT. What an engine phase step and a CBS step can change, said once (`40_bit_access.md` R106, `41_clock_sequencer.md`
R141, R145, R146, R151, R161). -/

namespace Sys2Proof.Machine

/-- Completion changes only the phase, `eng_done`, and what a response changes (R107). -/
theorem complete_frame (s : State) :
    complete s = { s with engPhase := .idle, engDone := (complete s).engDone, clientBusy := (complete s).clientBusy
                          rsp := (complete s).rsp, events := (complete s).events } := by
  rcases complete_cases s with ⟨-, h⟩ | ⟨-, h⟩ <;> rw [h]

/-- An engine phase step changes only the engine's progress, a response, memory, the draws, the events and the fault
mark. -/
theorem engineStep_frame (s : State) :
    engineStep s = { s with
      engPhase := (engineStep s).engPhase, engTmp := (engineStep s).engTmp, engResult := (engineStep s).engResult
      engDone := (engineStep s).engDone, clientBusy := (engineStep s).clientBusy, fault := (engineStep s).fault
      rsp := (engineStep s).rsp, mem := (engineStep s).mem, draws := (engineStep s).draws
      drawCount := (engineStep s).drawCount, events := (engineStep s).events } := by
  cases hp : s.engPhase <;> simp only [engineStep, hp]
  case idle => rw [← hp]
  case aWrite =>
    simp only [phaseAWrite]
    split
    · rename_i t h; rw [complete_frame t, busWrite_frame h]
    · rfl
  case aRead =>
    simp only [phaseARead]
    split
    · rename_i r t h; rw [complete_frame, busRead_frame h]
    · rfl
  case dRead =>
    simp only [phaseDRead]
    split
    · rename_i r t h; rw [complete_frame, busRead_frame h]
    · rfl
  case dClrR =>
    simp only [phaseDClrR]
    split
    · rename_i r t h; rw [busRead_frame h]
    · rfl
  case dClrW =>
    simp only [phaseDClrW]
    split
    · rename_i t h
      split
      · rw [busWrite_frame h]
      · rw [complete_frame t, busWrite_frame h]
    · rfl
  case dSetR =>
    simp only [phaseDSetR]
    split
    · rename_i r t h; rw [busRead_frame h]
    · rfl
  case dSetW =>
    simp only [phaseDSetW]
    split
    · rename_i t h; rw [complete_frame t, busWrite_frame h]
    · rfl

/-- Entering a CBS state changes only `seq_state` and what a response changes (R164). -/
theorem enter_frame (q : SeqState) (s : State) :
    enter q s = { s with seqState := seqCode q, clientBusy := (enter q s).clientBusy, rsp := (enter q s).rsp
                         events := (enter q s).events } := by
  rcases enter_cases q s with ⟨rfl, h⟩ | ⟨-, h⟩
  · rw [h]; rfl
  · rw [h]

/-- A CBS step changes neither what the client asked, nor the configuration, nor what the engine read, nor the draws. -/
theorem seqStep_frame (s : State) :
    seqStep s = { s with
      seqState := (seqStep s).seqState, seqIssued := (seqStep s).seqIssued, settleCnt := (seqStep s).settleCnt
      clockHz := (seqStep s).clockHz, engPhase := (seqStep s).engPhase, engOwner := (seqStep s).engOwner
      engOp := (seqStep s).engOp, engAddr := (seqStep s).engAddr, engBit := (seqStep s).engBit
      engVal := (seqStep s).engVal, engAlias := (seqStep s).engAlias, engWdata := (seqStep s).engWdata
      engDone := (seqStep s).engDone, clientBusy := (seqStep s).clientBusy, fault := (seqStep s).fault
      rsp := (seqStep s).rsp, mem := (seqStep s).mem, events := (seqStep s).events } := by
  simp only [seqStep]
  split
  · rfl
  · split
    · rfl
    · simp only [seqEng]
      split
      · rfl
      · split
        · rw [enter_frame]
        · rfl
    · simp only [seqWord]
      split
      · rename_i t h; rw [enter_frame, busWrite_frame h]
      · rfl
    · simp only [seqSettle]
      split
      · rw [enter_frame]
      · rfl
    · simp only [seqRecord]
      rw [enter_frame]

end Sys2Proof.Machine
end

