-- ==== Sys2Proof/Laws/PerInstr.lean ====
section
/-! SUPPORT. Per operation: the word of a well-formed operation fits its row of the opcode table, the row's match under
the row's mask (`30_encoding.md` R80 to R86). -/

namespace Sys2Proof

/-- The match of an operation's row in `opcode_table.json`. -/
def rowMatch : Instr → ReqWord
  | .rdbit _ _ => 0x000000000000
  | .setbit _ _ => 0x010000000000
  | .clrbit _ _ => 0x020000000000
  | .wrbit _ _ _ => 0x030000000000
  | .initclk => 0x040000000000
  | .getfreq => 0x050000000000
  | .reservedOp110 _ => 0x060000000000
  | .reservedOp111 _ => 0x070000000000

/-- The mask of an operation's row. -/
def rowMask : Instr → ReqWord
  | .rdbit _ _ => 0xFFE000000000
  | .setbit _ _ => 0xFFE000000000
  | .clrbit _ _ => 0xFFE000000000
  | .wrbit _ _ _ => 0xFFC000000000
  | .initclk => 0xFFFFFFFFFFFF
  | .getfreq => 0xFFFFFFFFFFFF
  | .reservedOp110 _ => 0x070000000000
  | .reservedOp111 _ => 0x070000000000

/-- The operation's word fits its row. -/
def Laws.EncodedInRow.Statement (i : Instr) : Prop := i.wf = true → encode i &&& rowMask i = rowMatch i

/-- A word masked from bit `n` up is its top shifted back. -/
theorem and_high_mask {x c : ReqWord} {n : Nat} (h : x >>> n = c) : x &&& (BitVec.allOnes 48 <<< n) = c <<< n := by
  subst h
  apply BitVec.eq_of_getLsbD_eq
  intro k hk
  simp only [BitVec.getLsbD_and, BitVec.getLsbD_shiftLeft, BitVec.getLsbD_ushiftRight, BitVec.getLsbD_allOnes, hk]
  by_cases h : k < n
  · simp [h]
  · simp [h, show n + (k - n) = k by omega, show k - n < 48 by omega]

/-- The bits of a packed request above `BIT`. -/
theorem packReq_shift_37 (op : BitVec 3) (v : Bool) (b : BitIndex) (a : Word) :
    packReq op v b a >>> 37 = (0#5 ++ op ++ 0#2 ++ BitVec.ofBool v).setWidth 48 := by
  apply BitVec.eq_of_getLsbD_eq
  intro k hk
  simp only [packReq, BitVec.getLsbD_ushiftRight, BitVec.getLsbD_append, BitVec.getLsbD_setWidth, hk, decide_true,
    Bool.true_and, show ¬ 37 + k < 32 by omega, if_false, show ¬ 37 + k - 32 < 5 by omega,
    show 37 + k - 32 - 5 = k by omega]

/-- The bits of a packed request above `VAL`. -/
theorem packReq_shift_38 (op : BitVec 3) (v : Bool) (b : BitIndex) (a : Word) :
    packReq op v b a >>> 38 = (0#5 ++ op ++ 0#2).setWidth 48 := by
  apply BitVec.eq_of_getLsbD_eq
  intro k hk
  simp only [packReq, BitVec.getLsbD_ushiftRight, BitVec.getLsbD_append, BitVec.getLsbD_setWidth, hk, decide_true,
    Bool.true_and, show ¬ 38 + k < 32 by omega, if_false, show ¬ 38 + k - 32 < 5 by omega,
    show 38 + k - 32 - 5 = k + 1 by omega, show ¬ k + 1 < 1 by omega, show k + 1 - 1 = k by omega]

/-- A packed request under the mask of `RDBIT`, `SETBIT` and `CLRBIT`. -/
theorem packReq_mask_37 (op : BitVec 3) (b : BitIndex) (a : Word) :
    packReq op false b a &&& 0xFFE000000000#48 = (0#5 ++ op ++ 0#2 ++ BitVec.ofBool false).setWidth 48 <<< 37 := by
  rw [show 0xFFE000000000#48 = BitVec.allOnes 48 <<< 37 by decide]
  exact and_high_mask (packReq_shift_37 op false b a)

/-- A packed request under the mask of `WRBIT`. -/
theorem packReq_mask_38 (op : BitVec 3) (v : Bool) (b : BitIndex) (a : Word) :
    packReq op v b a &&& 0xFFC000000000#48 = (0#5 ++ op ++ 0#2).setWidth 48 <<< 38 := by
  rw [show 0xFFC000000000#48 = BitVec.allOnes 48 <<< 38 by decide]
  exact and_high_mask (packReq_shift_38 op v b a)

/-- A word under the mask of the reserved rows is its `OP`. -/
theorem op_mask {w : ReqWord} {op : BitVec 3} (h : w.extractLsb' 40 3 = op) :
    w &&& 0x070000000000#48 = op.setWidth 48 <<< 40 := by
  subst h
  rw [show 0x070000000000#48 = (BitVec.allOnes 3).setWidth 48 <<< 40 by decide]
  apply BitVec.eq_of_getLsbD_eq
  intro k hk
  simp only [BitVec.getLsbD_and, BitVec.getLsbD_shiftLeft, BitVec.getLsbD_setWidth, BitVec.getLsbD_extractLsb',
    BitVec.getLsbD_allOnes, hk]
  by_cases h : k < 40
  · simp [h]
  · by_cases h3 : k - 40 < 3
    · simp [h, h3, show 40 + (k - 40) = k by omega, show k - 40 < 48 by omega]
    · simp [h, h3]

theorem Laws.EncodedInRow.rdbit (a : Word) (b : BitIndex) : Laws.EncodedInRow.Statement (.rdbit a b) := fun _ =>
  (packReq_mask_37 0#3 b a).trans (by simp only [rowMatch]; decide)

theorem Laws.EncodedInRow.setbit (a : Word) (b : BitIndex) : Laws.EncodedInRow.Statement (.setbit a b) := fun _ =>
  (packReq_mask_37 1#3 b a).trans (by simp only [rowMatch]; decide)

theorem Laws.EncodedInRow.clrbit (a : Word) (b : BitIndex) : Laws.EncodedInRow.Statement (.clrbit a b) := fun _ =>
  (packReq_mask_37 2#3 b a).trans (by simp only [rowMatch]; decide)

theorem Laws.EncodedInRow.wrbit (a : Word) (b : BitIndex) (v : Bool) : Laws.EncodedInRow.Statement (.wrbit a b v) :=
  fun _ => (packReq_mask_38 3#3 v b a).trans (by simp only [rowMatch]; decide)

theorem Laws.EncodedInRow.initclk : Laws.EncodedInRow.Statement .initclk := fun _ => by decide

theorem Laws.EncodedInRow.getfreq : Laws.EncodedInRow.Statement .getfreq := fun _ => by decide

theorem Laws.EncodedInRow.reservedOp110 (w : ReqWord) : Laws.EncodedInRow.Statement (.reservedOp110 w) := fun h =>
  (op_mask (eq_of_beq h)).trans (by simp only [rowMatch]; decide)

theorem Laws.EncodedInRow.reservedOp111 (w : ReqWord) : Laws.EncodedInRow.Statement (.reservedOp111 w) := fun h =>
  (op_mask (eq_of_beq h)).trans (by simp only [rowMatch]; decide)

end Sys2Proof
end

