-- ==== Sys2Proof/Laws/Step.lean ====
section
/-! SUPPORT. What one step can do, said once (`60_exceptions.md` R206). -/

namespace Sys2Proof.Machine

/-- The accepting step of any operation ends in a next state. -/
theorem exec_next (i : Instr) (s : State) : ∃ t, exec i s = .next t := by
  cases i
  case initclk => simp only [exec, execInitclk]; split <;> exact ⟨_, rfl⟩
  case getfreq =>
    simp only [exec, execGetfreq]
    split
    · exact ⟨_, rfl⟩
    · exact ⟨_, rfl⟩
    · split <;> exact ⟨_, rfl⟩
  all_goals exact ⟨_, rfl⟩

/-- What a step without reset that goes on can do: raise `INTERNAL_STATE`, an engine phase, a CBS step, refuse a word,
run a decoded operation, or wait. -/
theorem blockStep_cases {s t : State} (h : blockStep s = .next t) :
    s.refused = none ∧ s.fault = none ∧
      ((blockConsistent s = false ∧ t = raiseFault .internalState s)
      ∨ (blockConsistent s = true ∧
          ((s.engPhase ≠ .idle ∧ t = engineStep s)
          ∨ (s.engPhase = .idle ∧ seqPhase s = .running ∧ t = seqStep s)
          ∨ (s.engPhase = .idle ∧ seqPhase s ≠ .running ∧
              ((∃ w rest, s.reqs = w :: rest ∧ reqReady s = true ∧
                  ((decode w = .error .reservedBits ∧ t = raiseRefuse .reservedBits { s with reqs := rest })
                  ∨ (∃ i, decode w = .ok i ∧ exec i { s with reqs := rest } = .next t)))
              ∨ ((s.reqs = [] ∨ reqReady s = false) ∧ t = s)))))) := by
  unfold blockStep at h
  split at h
  · cases h
  · cases h
  · refine ⟨‹_›, ‹_›, ?_⟩
    split at h
    · cases h; exact .inl ⟨‹_›, rfl⟩
    · refine .inr ⟨Bool.eq_true_of_not_eq_false ‹_›, ?_⟩
      split at h
      · cases h; exact .inl ⟨‹_›, rfl⟩
      · have hidle : s.engPhase = .idle := Classical.not_not.mp ‹_›
        split at h
        · cases h; exact .inr (.inl ⟨hidle, ‹_›, rfl⟩)
        · refine .inr (.inr ⟨hidle, ‹_›, ?_⟩)
          unfold clientStep at h
          split at h
          · rename_i w rest hr
            split at h
            · refine .inl ⟨w, rest, hr, ‹_›, ?_⟩
              unfold accept at h
              rw [hr] at h
              split at h
              · exact .inr ⟨_, ‹_›, h⟩
              · cases h; exact .inl ⟨‹_›, rfl⟩
            · cases h; exact .inr ⟨.inr (Bool.eq_false_of_not_eq_true ‹_›), rfl⟩
          · cases h; exact .inr ⟨.inl ‹_›, rfl⟩

/-- What a step that goes on can do: the reset step, or a step of THE BLOCK from the state the environment leaves. -/
theorem step_cases {s t : State} (h : step s = .next t) :
    configWf s.cfg = true ∧
      ((resetRaised s = true ∧ t = blockReset (absorb s))
      ∨ (resetRaised s = false ∧ blockStep (absorb s) = .next t)) := by
  unfold step machineStep at h
  split at h
  · cases h
  · refine ⟨Bool.eq_true_of_not_eq_false ‹_›, ?_⟩
    split at h
    · cases h; exact .inl ⟨‹_›, rfl⟩
    · exact .inr ⟨Bool.eq_false_of_not_eq_true ‹_›, h⟩

/-- A well-formed configuration without reset takes THE BLOCK's step. -/
theorem step_eq_blockStep {s : State} (hc : configWf s.cfg = true) (hr : resetRaised s = false) :
    step s = blockStep (absorb s) := by
  simp [step, machineStep, hc, hr]

end Sys2Proof.Machine
end

