-- ==== Sys2Proof/Laws/Quiet.lean ====
section
/-! SUPPORT. One step of an undisturbed machine, by what is in flight: the four equations a run is built from. -/

namespace Sys2Proof.Machine

theorem blockStep_of_engine {u : State} (h1 : u.refused = none) (h2 : u.fault = none)
    (hc : blockConsistent u = true) (hp : u.engPhase ≠ .idle) : blockStep u = .next (engineStep u) := by
  simp only [blockStep, h1, h2, hc, Bool.true_eq_false, if_false, if_pos hp]

theorem blockStep_of_seq {u : State} (h1 : u.refused = none) (h2 : u.fault = none)
    (hc : blockConsistent u = true) (hp : u.engPhase = .idle) (hr : seqPhase u = .running) :
    blockStep u = .next (seqStep u) := by
  simp only [blockStep, h1, h2, hc, Bool.true_eq_false, if_false, if_neg (not_not.mpr hp), if_pos hr]

theorem blockStep_of_client {u : State} (h1 : u.refused = none) (h2 : u.fault = none)
    (hc : blockConsistent u = true) (hp : u.engPhase = .idle) (hr : seqPhase u ≠ .running) :
    blockStep u = clientStep u := by
  simp only [blockStep, h1, h2, hc, Bool.true_eq_false, if_false, if_neg (not_not.mpr hp), if_neg hr]

/-- A quiet step of a well-formed configuration is THE BLOCK's step, the old response gone. -/
theorem step_of_quiet {s : State} (hc : configWf s.cfg = true) (hq : s.stimuli = []) :
    step s = blockStep { s with rsp := none } := by
  rw [step_eq_blockStep hc (resetRaised_of_quiet hq), absorb_of_quiet hq]

/-- The registers agree while the client's operation is in flight in STABLE (R40). -/
theorem blockConsistent_of_client {u : State} (hs : u.seqState = 0x20#6) (hi : u.seqIssued = false)
    (hd : u.engDone = false) (hb : u.clientBusy = true) (ho : u.engOwner = .client) (hp : u.engPhase ≠ .idle)
    (hf : phaseFits u = true) : blockConsistent u = true := by
  simp [blockConsistent, seqOfCode, hs, hi, hd, hb, ho, hp, hf]

/-- The registers agree while a CBS state's own operation is in flight (R40, R145). -/
theorem blockConsistent_of_own {u : State} {q : SeqState} (hs : u.seqState = seqCode q)
    (he : isOwnOperation q u = true) (hi : u.seqIssued = true) (hd : u.engDone = false) (hb : u.clientBusy = true)
    (ho : u.engOwner = .seq) (hp : u.engPhase ≠ .idle) (hf : phaseFits u = true) : blockConsistent u = true := by
  cases q <;> first
    | (simp [isOwnOperation, seqAction] at he; done)
    | simp [blockConsistent, hs, hi, hd, hb, ho, hp, he, hf]

/-- An operation of the client in flight: the next step is its engine phase. -/
theorem step_client_engine {s : State} (h : Undisturbed s) (hs : s.seqState = 0x20#6) (hi : s.seqIssued = false)
    (hd : s.engDone = false) (hb : s.clientBusy = true) (ho : s.engOwner = .client) (hp : s.engPhase ≠ .idle)
    (hf : phaseFits s = true) :
    step s = .next (engineStep { s with rsp := none }) := by
  obtain ⟨hc, ⟨h1, h2⟩, hq⟩ := h
  rw [step_of_quiet hc hq]
  exact blockStep_of_engine h1 h2 (blockConsistent_of_client hs hi hd hb ho hp hf) hp

/-- An operation of the sequencer in flight: the next step is its engine phase. -/
theorem step_seq_engine {s : State} {q : SeqState} (h : Undisturbed s) (hs : s.seqState = seqCode q)
    (he : isOwnOperation q s = true) (hi : s.seqIssued = true) (hd : s.engDone = false) (hb : s.clientBusy = true)
    (ho : s.engOwner = .seq) (hp : s.engPhase ≠ .idle) (hf : phaseFits s = true) :
    step s = .next (engineStep { s with rsp := none }) := by
  obtain ⟨hc, ⟨h1, h2⟩, hq⟩ := h
  rw [step_of_quiet hc hq]
  exact blockStep_of_engine h1 h2 (blockConsistent_of_own (q := q) hs he hi hd hb ho hp hf) hp

theorem seqPhase_running {s : State} {q : SeqState} (hs : s.seqState = seqCode q) (h0 : q ≠ .idle)
    (h1 : q ≠ .stable) : seqPhase s = .running := by
  cases q <;> simp_all [seqPhase, seqCode]

/-- A CBS state with nothing issued: the next step is its action. -/
theorem step_seq_fresh {s : State} {q : SeqState} (h : SeqAt (seqCode q) s) (h0 : q ≠ .idle) (h1 : q ≠ .stable) :
    step s = .next (seqStep { s with rsp := none }) := by
  obtain ⟨⟨hc, ⟨hr, hf⟩, hq⟩, hp, hi, hd, hb, hs⟩ := h
  rw [step_of_quiet hc hq]
  refine blockStep_of_seq hr hf ?_ hp (seqPhase_running (q := q) hs h0 h1)
  cases q <;> simp_all [blockConsistent]

/-- A CBS state whose operation is done: the next step consumes the result. -/
theorem step_seq_consume {s : State} {q : SeqState} (h : Undisturbed s) (hs : s.seqState = seqCode q)
    (he : isEngState s.cfg q = true) (hp : s.engPhase = .idle) (hi : s.seqIssued = true) (hd : s.engDone = true)
    (hb : s.clientBusy = true) : step s = .next (seqStep { s with rsp := none }) := by
  obtain ⟨hc, ⟨hr, hf⟩, hq⟩ := h
  rw [step_of_quiet hc hq]
  refine blockStep_of_seq hr hf ?_ hp (seqPhase_running (q := q) hs ?_ ?_)
  · cases q <;> first
      | (simp [isEngState, seqAction] at he; done)
      | simp [blockConsistent, hs, hi, hd, hb, hp, isEngState, seqAction]
  · rintro rfl; simp [isEngState, seqAction] at he
  · rintro rfl; simp [isEngState, seqAction] at he

/-- At rest with a decodable word on the port: the next step is the operation's accepting step. -/
theorem step_accepts {s : State} {w : ReqWord} {rest : List ReqWord} {i : Instr} (h : Undisturbed s) (ha : AtRest s)
    (hs : s.seqState = 0x00#6 ∨ s.seqState = 0x20#6) (hr : s.reqs = w :: rest) (hd : decode w = .ok i) :
    step s = exec i { s with rsp := none, reqs := rest } := by
  obtain ⟨hc, ⟨h1, h2⟩, hq⟩ := h
  obtain ⟨hp, hi, he, hb⟩ := ha
  have hcon : blockConsistent { s with rsp := none } = true := by
    rcases hs with hs | hs <;> simp [blockConsistent, seqOfCode, hs, hi, he, hb, hp]
  rw [step_of_quiet hc hq]
  rw [blockStep_of_client (u := { s with rsp := none }) h1 h2 hcon hp (by rcases hs with hs | hs <;> simp [seqPhase, hs])]
  have hready : reqReady { s with rsp := none } = true := by
    simp [reqReady, reqValid, marked, hr, hb, hp, he, h1, h2]
  simp only [clientStep, hr, accept, hd, List.tail_cons]
  rw [hr] at hready
  rw [if_pos hready]

/-- The accepting step of a bit operation in STABLE whose operands pass is its issue (R103, R104). -/
theorem acceptBitOp_stable {cop : ClientOp} {op : EngOp} {a : Word} {b : BitIndex} {v : Bool} {s : State}
    (hs : s.seqState = 0x20#6) (ho : OperandsPass s.cfg a b) :
    acceptBitOp cop op a b v s = issue .client op a b v { s with clientBusy := true, clientOp := some cop } := by
  have hchk : operandCheck s.cfg a b = none := by
    simp [operandCheck, wordAligned, ho.1, Nat.not_le.mpr ho.2]
  simp only [acceptBitOp, seqPhase, hs, hchk]
  rfl

theorem runSteps_succ {s t : State} (h : step s = .next t) (k : Nat) : runSteps (k + 1) s = runSteps k t := by
  simp only [runSteps, h]

/-- A run of `j + k` steps is a run of `k` from where `j` steps lead. -/
theorem runSteps_add {s t : State} {j : Nat} (h : runSteps j s = .next t) (k : Nat) :
    runSteps (j + k) s = runSteps k t := by
  induction j generalizing s with
  | zero => cases h; simp
  | succ j ih =>
    have e : j + 1 + k = (j + k) + 1 := by omega
    rw [e]
    simp only [runSteps] at h ⊢
    split at h
    · rename_i u hu; simp only [ih h]
    · cases h
    · cases h

end Sys2Proof.Machine
end

