-- ==== Sys2Proof/Tests/Slice0.lean ====
section
/-! SUPPORT. Tests of the model against `95_test_vectors.md` (the vector or the hand calculation is named at each), the
refusals of ill-formed terms, and for each statement with hypotheses a concrete state and operands that meet them. -/

namespace Sys2Proof.Machine.Tests

-- One kernel evaluation at a time: each waits for those before it, and a waiting one holds a thread's stack.
set_option Elab.async false

/-- One field of a next state, or nothing. -/
def field {α : Type} (f : State → α) : Host.Outcome State Fault Refusal → Option α
  | .next t => some (f t)
  | .fault _ => none
  | .refused _ => none

/-- THE BLOCK at rest in STABLE after program P1, the requests on the port. -/
def stable (c : Config) (reqs : List ReqWord) : State :=
  { State.launch c with seqState := 0x20, clockHz := some (BitVec.ofNat 32 (freqHz c)), reqs := reqs }

/-- THE BLOCK waiting for `INITCLK` in the CBS state of a code, its volatile reads to come. -/
def running (c : Config) (code : BitVec 6) (draws : List Word) : State :=
  { State.launch c with seqState := code, clientBusy := true, clientOp := some .initclk, draws := draws }

/-- D35 with the USB domain brought up as well. -/
def usb : Config := { Config.d35 with usbEnable := true }

/-- D35 with one narrow register and one word other agents write. -/
def narrow : Config := { Config.d35 with regWidths := [⟨0x50008000, 15⟩], envWritable := [0x50008000] }

/-- D35 with a plain and a direct word made volatile. -/
def vol : Config := { Config.d35 with volatileWords := [0x40000000, 0x50008000] ++ Config.d35.volatileWords }

/-- D35's crystal and settle count with the clock-control registers outside the window, the other parameters R7's. -/
def outside : Config :=
  { fXtal := 12000000, oscSettleIter := 2, map := { base := 0x50010000 }, mapped := [⟨0x50010000, 0x500103FF⟩] }

/-- The same with the clock-control registers in the alias window. -/
def aliased : Config :=
  { fXtal := 12000000, oscSettleIter := 2, map := { base := 0x42000000 }
    mapped := [⟨0x40000000, 0x400FFFFF⟩, ⟨0x42000000, 0x420003FF⟩] }

/-- A direct `SETBIT` of the client between its read and its write. -/
def inFlight : State :=
  { stable Config.d35 [0x050000000000#48] with
    clientBusy := true, clientOp := some .setbit, engOp := .set, engPhase := .dSetW
    engAddr := 0x50008000, engBit := 31, engTmp := 0xF0 }

/-- The step goes on. -/
def goesOn (s : State) : Bool := (field (fun _ => ()) (step s)).isSome

/-- The state after a step that goes on. -/
def after (s : State) : State := (field id (step s)).getD s

theorem step_after {s : State} (h : goesOn s = true) : step s = .next (after s) := by
  unfold goesOn after at *
  cases hs : step s <;> simp_all [field]

/-! ### Ill-formed terms (`30_encoding.md` R86) and configurations (`00_scope.md` R9) -/

theorem test_illformed_reserved110 : (Instr.reservedOp110 0x070000000000).wf = false := by decide
theorem test_illformed_reserved111 : (Instr.reservedOp111 0x060000000000).wf = false := by decide
theorem test_wellformed_reserved : (Instr.reservedOp110 0xFE3F00000001).wf = true := by decide

theorem test_d35_wellformed : configWf Config.d35 = true := by decide +kernel
theorem test_wf1_unaligned_window : wf1 { Config.d35 with bbLo := 0x40000001 } = false := by decide
theorem test_wf2_mask_in_window : wf2 { Config.d35 with highMask := 0xF0000004 } = false := by decide
theorem test_wf2_bit_in_no_mask : wf2 { Config.d35 with highMask := 0x80000000 } = false := by decide
theorem test_wf3_windows_overlap : wf3 { Config.d35 with aliasOffset := 0 } = false := by decide
/-- V-R13. -/
theorem test_wf4_literal : configWf { Config.d35 with aliasOffset := 0x02000004 } = false := by decide +kernel
theorem test_wf5_unmapped : wf5 { Config.d35 with mapped := [] } = false := by decide
/-- V-R11. -/
theorem test_wf6_main_sel : configWf { Config.d35 with mainSel := 2 } = false := by decide +kernel
/-- V-R12. -/
theorem test_wf6_bus_div : configWf { Config.d35 with busDiv := 0 } = false := by decide +kernel
/-- V-R14. -/
theorem test_wf7_frequency : configWf { Config.d35 with fXtal := 200000000, pllCtrl := 0x1F } = false := by
  decide +kernel

/-! ### Decoding: V-E1 to V-E18 -/

theorem test_decode_rdbit : decode 0x001F400FFFFC#48 = .ok (.rdbit 0x400FFFFC 31) := by decide
theorem test_decode_setbit : decode 0x011F50008000#48 = .ok (.setbit 0x50008000 31) := by decide
theorem test_decode_clrbit : decode 0x020540000000#48 = .ok (.clrbit 0x40000000 5) := by decide
theorem test_decode_wrbit_one : decode 0x033F40000000#48 = .ok (.wrbit 0x40000000 31 true) := by decide
theorem test_decode_wrbit_zero : decode 0x030540000000#48 = .ok (.wrbit 0x40000000 5 false) := by decide
theorem test_decode_initclk : decode 0x040000000000#48 = .ok .initclk := by decide
theorem test_decode_getfreq : decode 0x050000000000#48 = .ok .getfreq := by decide
theorem test_decode_reserved110 : decode 0x060000000000#48 = .ok (.reservedOp110 0x060000000000#48) := by decide
theorem test_decode_reserved111 : decode 0x070000000003#48 = .ok (.reservedOp111 0x070000000003#48) := by decide
theorem test_reject_getfreq_addr : decode 0x050000000001#48 = .error .reservedBits := by decide
theorem test_reject_setbit_val : decode 0x012540000000#48 = .error .reservedBits := by decide
theorem test_reject_bit38 : decode 0x004540000000#48 = .error .reservedBits := by decide
theorem test_reject_initclk_bit : decode 0x040100000000#48 = .error .reservedBits := by decide
theorem test_reject_bit47 : decode 0x800000000000#48 = .error .reservedBits := by decide
/-- R90's worked encoding. -/
theorem test_encode_setbit : encode (.setbit 0x40000000 5) = 0x010540000000#48 := by decide
/-- The table's word of `WRBIT` with all its operand bits 1. -/
theorem test_table_word : decodeTableWord 48 0x033FFFFFFFFF = some (.wrbit 0xFFFFFFFF 31 true) := by decide

/-! ### Addresses: V-A1 to V-A14 -/

theorem test_alias_literal : aliasAddr Config.d35 0x40000000 5 = 0x42000014#32 := by decide
theorem test_alias_last : aliasAddr Config.d35 0x400FFFFC 31 = 0x43FFFFFC#32 := by decide
theorem test_alias_decode : aliasDecode Config.d35 0x42904720#32 = (0x40048238#32, 8#5) := by decide
theorem test_window_bounds :
    inWindow Config.d35 0x400FFFFF = true ∧ inWindow Config.d35 0x40100000 = false
      ∧ inWindow Config.d35 0x3FFFFFFC = false ∧ inWindow Config.d35 0x42000014 = false := by decide
theorem test_alias_window : aliasLo Config.d35 = 0x42000000#32 ∧ aliasHi Config.d35 = 0x43FFFFFF#32 := by decide

/-! ### Clock arithmetic: V-F2, V-F3, V-F7, V-F8, V-O2, V-O3 -/

theorem test_freq_divided : freqHz { Config.d35 with busDiv := 7 } = 10285714 := by decide
theorem test_freq_m32 : freqHz { Config.d35 with pllCtrl := 0x1F, busDiv := 3 } = 128000000 := by decide
theorem test_freq_irc_pll : freqHz { Config.d35 with fXtal := 16000000, pllSrc := 0 } = 72000000 := by decide
theorem test_freq_irc_main : freqHz { Config.d35 with mainSel := 0, busDiv := 2 } = 6000000 := by decide
theorem test_osc_threshold_is_strict : oscCtrlValue { Config.d35 with fXtal := 20000000 } = 0#32 := by decide
theorem test_osc_above_threshold :
    oscCtrlValue { Config.d35 with fXtal := 20000001, oscBypass := 1 } = 3#32 := by decide

/-! ### One step of each operation -/

/-- V-B1's address, read. -/
theorem test_rdbit_issues_alias_read :
    field (fun t => (t.engPhase, t.engAlias, t.clientBusy)) (exec (.rdbit 0x40000000 5) (stable Config.d35 []))
      = some (.aRead, 0x42000014#32, true) := by decide
/-- V-R5: gating before the operand checks. -/
theorem test_rdbit_in_pre_init :
    field (fun t => t.refused) (exec (.rdbit 0x40000002 0) State.reset) = some (some .notInitialised) := by decide
/-- V-B8's path. -/
theorem test_setbit_direct_starts_with_read :
    field (fun t => (t.engPhase, t.engAlias)) (exec (.setbit 0x50008000 31) (stable Config.d35 []))
      = some (.dSetR, 0#32) := by decide
/-- V-R7: alignment before the register's width. -/
theorem test_setbit_unaligned :
    field (fun t => t.refused) (exec (.setbit 0x50008002 16) (stable narrow [])) = some (some .unalignedAddr) := by
  decide
/-- V-B4's write word. -/
theorem test_clrbit_writes_zero :
    field (fun t => (t.engPhase, t.engWdata)) (exec (.clrbit 0x40000000 5) (stable Config.d35 []))
      = some (.aWrite, 0#32) := by decide
/-- V-R6. -/
theorem test_clrbit_out_of_range :
    field (fun t => t.refused) (exec (.clrbit 0x50008000 16) (stable narrow [])) = some (some .bitOutOfRange) := by
  decide
/-- V-B6's write word and address. -/
theorem test_wrbit_alias :
    field (fun t => (t.engWdata, t.engAlias)) (exec (.wrbit 0x40000000 31 true) (stable Config.d35 []))
      = some (1#32, 0x4200007C#32) := by decide
/-- V-B11: the direct path begins with the clear half. -/
theorem test_wrbit_direct_clears_first :
    field (fun t => t.engPhase) (exec (.wrbit 0x50008000 3 true) (stable Config.d35 [])) = some .dClrR := by decide
/-- P1, step 1. -/
theorem test_initclk_starts :
    field (fun t => (t.seqState, t.clientBusy, t.rsp)) (exec .initclk State.reset) = some (0x01#6, true, none) := by
  decide
/-- V-R3. -/
theorem test_initclk_twice :
    field (fun t => t.refused) (exec .initclk (stable Config.d35 [])) = some (some .initTwice) := by decide
/-- P1, last event: 72,000,000 Hz. -/
theorem test_getfreq : field (fun t => t.rsp) (exec .getfreq (stable Config.d35 [])) = some (some 0x044AA200#32) := by
  decide
/-- V-R2. -/
theorem test_getfreq_in_pre_init :
    field (fun t => t.refused) (exec .getfreq State.reset) = some (some .notInitialised) := by decide
/-- V-E12. -/
theorem test_reserved110 :
    field (fun t => (t.refused, t.events)) (exec (.reservedOp110 0x060000000000) State.reset)
      = some (some .reservedOp, []) := by decide
/-- V-E13. -/
theorem test_reserved111 :
    field (fun t => t.refused) (exec (.reservedOp111 0x070000000003) (stable Config.d35 []))
      = some (some .reservedOp) := by decide

/-! ### One engine step and one CBS step -/

/-- V-B8's last step. -/
theorem test_direct_set_write :
    field (fun t => (t.events, t.rsp, memWord t 0x50008000)) (step inFlight)
      = some ([.busW 0x50008000 0x800000F0, .resp 0], some 0#32, 0x800000F0#32) := by decide +kernel
/-- P1's first transaction, from the reset value of `PDRUNCFG`. -/
theorem test_power_down_bit_clears :
    field (fun t => (t.events, memWord t 0x40048238, t.engDone))
        (step { running Config.d35 0x01 [] with
          seqIssued := true, engOwner := .seq, engOp := .clr, engPhase := .aWrite, engAddr := 0x40048238, engBit := 5
          engAlias := 0x42904714 })
      = some ([.busW 0x42904714 0], 0xEDD0#32, true) := by decide +kernel
/-- V-R8. -/
theorem test_unmapped_read :
    field (fun t => (t.fault, t.events))
        (step { inFlight with engOp := .rd, engPhase := .dRead, engAddr := 0x60000000, engBit := 0 })
      = some (some .unmapped, []) := by decide +kernel
/-- V-R9: the alias of an unmapped word. -/
theorem test_unmapped_alias_write :
    field (fun t => (t.fault, t.mem))
        (step { inFlight with
          engPhase := .aWrite, engAddr := 0x40000008, engBit := 0, engAlias := 0x42000100, engWdata := 1 })
      = some (some .unmapped, []) := by decide +kernel
/-- R40: an unused code. -/
theorem test_internal_state :
    field (fun t => t.fault) (step { State.reset with seqState := 0x21 }) = some (some .internalState) := by
  decide +kernel
/-- The model's order (log 14): reset in a state with an unused code resets, with no fault. -/
theorem test_reset_of_unused_code :
    field (fun t => (t.fault, t.seqState)) (step { State.reset with seqState := 0x21, stimuli := [{ rst := true }] })
      = some (none, 0x00#6) := by decide +kernel
/-- R40: the lock poll, a `RD`, with a write of the sequencer in flight, on either path; nothing reaches the bus. -/
theorem test_poll_state_with_a_write_in_flight :
    ∀ p ∈ ([(.dSetW, .rd), (.dSetW, .set), (.aWrite, .rd), (.aWrite, .set)] : List (EngPhase × EngOp)),
      field (fun t => (t.fault, t.events, t.mem))
          (step { running Config.d35 0x0B [] with
            seqIssued := true, engOwner := .seq, engOp := p.2, engPhase := p.1, engAddr := 0x4004800C, engBit := 0
            engAlias := 0x42900180, engWdata := 1 })
        = some (some .internalState, [], []) := by decide +kernel
/-- R7, R33: ACK_ADDR, VOLATILE and MEM_INIT follow the register map and the ACK addresses. -/
theorem test_defaults_follow_the_map :
    outside.ackMain = { addr := 0x50010074 } ∧ isVolatile outside 0x5001000C = true
      ∧ isVolatile outside 0x4004800C = false
      ∧ initWord outside 0x50010078 = 1#32 ∧ initWord outside 0x50010238 = 0xEDF0#32
      ∧ initWord outside 0x40048078 = 0#32 := by decide +kernel
theorem test_ack_address_is_volatile :
    isVolatile { fXtal := 12000000, oscSettleIter := 2, mapped := [], ackUsb := { addr := 0x40000000 } } 0x40000000
      = true := by decide
/-- R33, R55: PDRUNCFG's reset value byte by byte. -/
theorem test_launch_bytes :
    initByte Config.d35 0x40048238 = 0xF0#8 ∧ initByte Config.d35 0x40048239 = 0xED#8
      ∧ initByte Config.d35 0x40048078 = 1#8 ∧ initByte Config.d35 0x4004807C = 0#8 := by decide +kernel
/-- R63: of two words another agent writes, the one in ENV_WRITABLE changes. -/
theorem test_environment_writes_its_words_only :
    field (fun t => (memWord t 0x50008000, memWord t 0x40000000))
        (step { stable narrow [] with stimuli := [{ writes := [(0x40000000, 7), (0x50008000, 3)] }] })
      = some (3#32, 0#32) := by decide +kernel
/-- R114: a direct `SETBIT` of an alias word writes the word read with bit 0 set; the aliased bit 7 of 0x40000000 is 1. -/
theorem test_alias_word_read_modify_write :
    field (fun t => (memWord t 0x40000000, t.events)) (step { inFlight with
        engAddr := 0x4200001C, engBit := 0, engTmp := 0xA0 })
      = some (0x80#32, [.busW 0x4200001C 0xA1, .resp 0]) := by decide +kernel
/-- V-R10: a request presented while the bring-up runs holds. -/
theorem test_request_holds :
    field (fun t => (t.reqs, t.refused, t.seqState)) (step { running Config.d35 0x04 [] with reqs := [0x050000000000#48] })
      = some ([0x050000000000#48], none, 0x05#6) := by decide +kernel
/-- V-R15: the mark survives reset. -/
theorem test_mark_survives_reset :
    field (fun t => t.refused) (step { State.reset with refused := some .notInitialised, stimuli := [{ rst := true }] })
      = some (some .notInitialised) := by decide +kernel

/-! ### For each statement with hypotheses, states and operands that meet them all -/

theorem witness_DecodeOfEncodeIsTheOperation :
    (Instr.wrbit 0xFFFFFFFF 31 true).wf = true ∧ (Instr.reservedOp110 0xFEFFFFFFFFFF).wf = true
      ∧ (Instr.reservedOp111 0x070000000000).wf = true := by decide
theorem witness_EncodeOfDecodeIsTheWord :
    decode 0x000000000000#48 = .ok (.rdbit 0 0) ∧ decode 0xFFFFFFFFFFFF#48 = .ok (.reservedOp111 0xFFFFFFFFFFFF#48) := by
  decide
/-- A word for each alternative of the rejected ones, and each reserved `OP` beside it. -/
theorem witness_DecoderRejectsExactlyReservedBits :
    decode 0x034000000000#48 = .error .reservedBits ∧ decode 0x0B0000000000#48 = .error .reservedBits
      ∧ decode 0x022000000000#48 = .error .reservedBits ∧ decode 0x042000000000#48 = .error .reservedBits
      ∧ decode 0x050080000000#48 = .error .reservedBits
      ∧ decode 0x064000000000#48 = .ok (.reservedOp110 0x064000000000#48) := by decide

theorem witness_StepRunsTheDecodedOperation :
    let s := stable Config.d35 [0x050000000000#48, 0x010540000000#48]
    configWf s.cfg = true ∧ resetRaised s = false ∧ Unmarked s ∧ blockConsistent (absorb s) = true
      ∧ seqPhase s ≠ .running ∧ reqReady (absorb s) = true
      ∧ (absorb s).reqs = 0x050000000000#48 :: [0x010540000000#48]
      ∧ decode 0x050000000000#48 = .ok .getfreq ∧ Instr.getfreq.wf = true := by decide +kernel
theorem witness_StepRunsTheDecodedOperation_reset :
    let s := { State.reset with stimuli := [{ req := some 0x040000000000#48 }] }
    configWf s.cfg = true ∧ resetRaised s = false ∧ Unmarked s ∧ blockConsistent (absorb s) = true
      ∧ seqPhase s ≠ .running ∧ reqReady (absorb s) = true ∧ (absorb s).reqs = 0x040000000000#48 :: []
      ∧ decode 0x040000000000#48 = .ok .initclk ∧ Instr.initclk.wf = true := by decide +kernel

/-- In either phase, a word for each alternative: bit 38, bit 47, `VAL` of `SETBIT`, `ADDR` of `GETFREQ`. -/
theorem witness_ReservedBitsAreRefused :
    List.Forall (fun w : ReqWord => ReadyPreInit { State.reset with reqs := [w] } ∧ ReadyStable (stable Config.d35 [w])
      ∧ w.extractLsb' 40 3 ≠ 6#3 ∧ w.extractLsb' 40 3 ≠ 7#3)
      [0x004540000000#48, 0x800000000000#48, 0x012540000000#48, 0x050000000001#48]
    ∧ (0x004540000000#48).extractLsb' 38 2 ≠ 0#2 ∧ (0x800000000000#48).extractLsb' 43 5 ≠ 0#5
    ∧ ((0x012540000000#48).extractLsb' 40 3 < 3#3 ∧ (0x012540000000#48).getLsbD 37 = true)
    ∧ ((0x050000000001#48).extractLsb' 40 3 = 5#3 ∧ (0x050000000001#48).extractLsb' 0 38 ≠ 0#38) := by decide +kernel

theorem witness_MarkedBlockTakesNoStep :
    configWf State.reset.cfg = true ∧ resetRaised { State.reset with refused := some .reservedOp } = false
      ∧ resetRaised { State.reset with fault := some .unmapped } = false := by decide +kernel
theorem witness_MarksAreNeverCleared :
    ∃ t, step { State.reset with refused := some .reservedOp, fault := some .unmapped, stimuli := [{ rst := true }] }
      = .next t := ⟨_, step_after (by decide +kernel)⟩
theorem witness_IllformedConfigurationHasNoRun :
    configWf { State.reset with cfg := { Config.d35 with busDiv := 256 } }.cfg = false := by decide +kernel
/-- A configuration on either side of the equivalence. -/
theorem witness_WindowCheckDecidesTheRule :
    wf1 Config.d35 = true ∧ wf2 Config.d35 = true
      ∧ wf1 { Config.d35 with highMask := 0x80000000 } = true
      ∧ wf2 { Config.d35 with highMask := 0x80000000 } = false := by decide
theorem witness_PresentedRequestHoldsWhileBusy :
    resetRaised inFlight = false ∧ inFlight.clientBusy = true ∧ inFlight.engPhase ≠ .idle ∧ goesOn inFlight = true := by
  decide +kernel
theorem witness_PresentedRequestHoldsWhileBusy_done :
    let s := { running Config.d35 0x0B [] with seqIssued := true, engDone := true, stimuli := [{ req := some 0x1 }] }
    resetRaised s = false ∧ s.engDone = true ∧ goesOn s = true := by decide +kernel
/-- The rest clause: right after reset, and in STABLE. -/
theorem witness_PresentedRequestHoldsWhileBusy_rest :
    List.Forall (fun s => resetRaised s = false ∧ configWf s.cfg = true ∧ Unmarked s ∧ AtRest s
        ∧ (s.seqState = 0x00#6 ∨ s.seqState = 0x20#6) ∧ (absorb s).reqs = [])
      [State.reset, stable Config.d35 []] := by decide +kernel
/-- Also of `OneTransactionPerStep` and `MemoryChangesOnlyByBusWrites`: a step that writes the bus and responds. -/
theorem witness_NoStepWritesTheConfiguration : ∃ t, step inFlight = .next t := ⟨_, step_after (by decide +kernel)⟩
theorem witness_OneTransactionPerStep : step inFlight = .next (after inFlight)
    ∧ (after inFlight).events = [.busW 0x50008000 0x800000F0, .resp 0] :=
  ⟨step_after (by decide +kernel), by decide +kernel⟩
theorem witness_MemoryChangesOnlyByBusWrites : step inFlight = .next (after inFlight)
    ∧ (after inFlight).mem ≠ (absorb inFlight).mem := ⟨step_after (by decide +kernel), by decide +kernel⟩
/-- The environment's two clauses: a byte of no word of ENV_WRITABLE, and the last word written to one. -/
theorem witness_MemoryChangesOnlyByBusWrites_environment :
    let s := { stable narrow [] with stimuli := [{ writes := [(0x40000000, 7), (0x50008000, 3)] }] }
    OutsideEnvWords s.cfg 0x50007FFF ∧ (stimulus s).writes = [(0x40000000, 7)] ++ [(0x50008000, 3)]
      ∧ isEnvWritable s.cfg 0x50008000 = true ∧ wordAligned 0x50008000 = true ∧ s.mem.wf s.cfg = true := by
  refine ⟨fun w hw _ => ?_, by decide +kernel, by decide, by decide, by decide +kernel⟩
  have : w = 0x50008000#32 := by simpa [isEnvWritable, stable, State.launch, narrow] using hw
  subst this
  decide

/-- Also of `SetbitIsIssued`, `ClrbitIsIssued`, `WrbitIsIssued` and `OperandChecksInOrder`: an operand of either path that
passes, at the window's last word and a register's last bit. -/
theorem witness_RdbitIsIssued :
    (stable narrow []).seqState = 0x20#6 ∧ OperandsPass narrow 0x400FFFFC 31 ∧ OperandsPass narrow 0x40000000 0
      ∧ OperandsPass narrow 0x50008000 15 ∧ OperandsPass narrow 0x40100000 31 := by decide
theorem witness_SetbitIsIssued :
    (stable narrow []).seqState = 0x20#6 ∧ OperandsPass narrow 0x400FFFFC 31 ∧ OperandsPass narrow 0x50008000 15 := by
  decide
theorem witness_ClrbitIsIssued :
    (stable narrow []).seqState = 0x20#6 ∧ OperandsPass narrow 0x400FFFFC 31 ∧ OperandsPass narrow 0x50008000 15 := by
  decide
theorem witness_WrbitIsIssued :
    (stable narrow []).seqState = 0x20#6 ∧ OperandsPass narrow 0x400FFFFC 31 ∧ OperandsPass narrow 0x50008000 15 := by
  decide
theorem witness_InitclkStartsTheBringup : State.reset.seqState = 0x00#6 := by decide
theorem witness_GetfreqRespondsClockState :
    (stable Config.d35 []).seqState = 0x20#6 ∧ (stable Config.d35 []).clockHz = some 72000000#32 := by decide
theorem witness_ReservedOpsAreRefused :
    (0xFEFFFFFFFFFF#48).extractLsb' 40 3 = 6#3 ∧ (0x070000000000#48).extractLsb' 40 3 = 7#3 := by decide
theorem witness_RequestsOutOfPhaseAreRefused :
    State.reset.seqState = 0x00#6 ∧ (stable Config.d35 []).seqState = 0x20#6 := by decide
theorem witness_OperandChecksInOrder :
    (stable narrow []).seqState = 0x20#6
      ∧ Instr.wrbit 0x50008001 16 true ∈ [Instr.rdbit 0x50008001 16, .setbit 0x50008001 16, .clrbit 0x50008001 16,
          .wrbit 0x50008001 16 true]
      ∧ (0x50008001#32).extractLsb' 0 2 ≠ 0#2
      ∧ (0x50008000#32).extractLsb' 0 2 = 0#2 ∧ regWidth narrow 0x50008000 ≤ (16#5).toNat := by decide

/-- A plain and a volatile word of the alias path. -/
theorem witness_RdbitAliasPathRun :
    (∀ c ∈ [Config.d35, vol], ReadyStable (stable c [encode (.rdbit 0x40000000 31)])
      ∧ OperandsPass c 0x40000000 31 ∧ OnAliasPath c 0x40000000)
    ∧ isVolatile Config.d35 0x40000000 = false ∧ isVolatile vol 0x40000000 = true := by decide +kernel
theorem witness_RdbitDirectPathRun :
    ReadyStable (stable narrow [encode (.rdbit 0x50008000 15)]) ∧ OperandsPass narrow 0x50008000 15
      ∧ OnDirectPath narrow 0x50008000 ∧ PlainWord narrow 0x50008000 := by decide +kernel
/-- A volatile word and an alias word. -/
theorem witness_RdbitDrawnDirectRun :
    (ReadyStable (stable vol [encode (.rdbit 0x50008000 31)]) ∧ OperandsPass vol 0x50008000 31
      ∧ OnDirectPath vol 0x50008000 ∧ inAliasWindow vol 0x50008000 = false ∧ isVolatile vol 0x50008000 = true)
    ∧ ReadyStable (stable Config.d35 [encode (.rdbit 0x4200007C 0)]) ∧ OperandsPass Config.d35 0x4200007C 0
      ∧ OnDirectPath Config.d35 0x4200007C ∧ inAliasWindow Config.d35 0x4200007C = true := by decide +kernel
/-- Each of the four rows of the statement's list: the operation, what it issues, what it writes. -/
theorem witness_BitWritesAliasPathRun :
    (∀ p ∈ [(Instr.setbit 0x400FFFFC 31, EngOp.set, false, true), (Instr.clrbit 0x400FFFFC 31, EngOp.clr, false, false),
        (Instr.wrbit 0x400FFFFC 31 true, EngOp.wr, true, true), (Instr.wrbit 0x400FFFFC 31 false, EngOp.wr, false, false)],
      p ∈ [(Instr.setbit 0x400FFFFC 31, EngOp.set, false, true), (Instr.clrbit 0x400FFFFC 31, EngOp.clr, false, false),
        (Instr.wrbit 0x400FFFFC 31 p.2.2.2, EngOp.wr, p.2.2.2, p.2.2.2)]
      ∧ ReadyStable (stable Config.d35 [encode p.1]) ∧ (stable Config.d35 [encode p.1]).mem.wf Config.d35 = true)
    ∧ OperandsPass Config.d35 0x400FFFFC 31 ∧ OnAliasPath Config.d35 0x400FFFFC := by decide +kernel
/-- The three kinds of word of the direct path: plain, volatile, an alias word. -/
def directWords : List (Config × Word) := [(narrow, 0x50008000), (vol, 0x50008000), (Config.d35, 0x4200007C)]

theorem witness_SetbitDirectPathRun :
    List.Forall (fun p => let s := stable p.1 [encode (.setbit p.2 15)]
        ReadyStable s ∧ s.mem.wf s.cfg = true ∧ OperandsPass s.cfg p.2 15 ∧ OnDirectPath s.cfg p.2)
      directWords ∧ PlainWord narrow 0x50008000 := by decide +kernel
theorem witness_ClrbitDirectPathRun :
    List.Forall (fun p => let s := stable p.1 [encode (.clrbit p.2 0)]
        ReadyStable s ∧ s.mem.wf s.cfg = true ∧ OperandsPass s.cfg p.2 0 ∧ OnDirectPath s.cfg p.2)
      directWords ∧ PlainWord narrow 0x50008000 := by decide +kernel
theorem witness_WrbitZeroDirectPathRun :
    List.Forall (fun p => let s := stable p.1 [encode (.wrbit p.2 15 false)]
        ReadyStable s ∧ s.mem.wf s.cfg = true ∧ OperandsPass s.cfg p.2 15 ∧ OnDirectPath s.cfg p.2)
      directWords ∧ PlainWord narrow 0x50008000 := by decide +kernel
theorem witness_WrbitOneDirectPathRun :
    List.Forall (fun p => let s := stable p.1 [encode (.wrbit p.2 0 true)]
        ReadyStable s ∧ s.mem.wf s.cfg = true ∧ OperandsPass s.cfg p.2 0 ∧ OnDirectPath s.cfg p.2)
      directWords ∧ PlainWord narrow 0x50008000 := by decide +kernel
/-- The alias path. -/
theorem witness_BitWriteThenReadReturnsIt :
    let s := stable Config.d35 [encode (.clrbit 0x40000000 31), encode (.rdbit 0x40000000 31)]
    writeTarget (.clrbit 0x40000000 31) = some (0x40000000, 31, false) ∧ ReadyStable s ∧ s.mem.wf s.cfg = true
      ∧ OperandsPass s.cfg 0x40000000 31 ∧ OnAliasPath s.cfg 0x40000000 ∧ PlainWord s.cfg 0x40000000 := by
  decide +kernel
/-- The direct path. -/
theorem witness_BitWriteThenReadReturnsIt_direct :
    let s := stable Config.d35 [encode (.wrbit 0x50008000 0 true), encode (.rdbit 0x50008000 0)]
    writeTarget (.wrbit 0x50008000 0 true) = some (0x50008000, 0, true) ∧ ReadyStable s ∧ s.mem.wf s.cfg = true
      ∧ OperandsPass s.cfg 0x50008000 0 ∧ OnDirectPath s.cfg 0x50008000 ∧ PlainWord s.cfg 0x50008000 := by
  decide +kernel
/-- V-R8: a direct address. -/
theorem witness_UnmappedTransactionFaults :
    let s := { inFlight with engAddr := 0x60000000 }
    isMapped s.cfg (if inAliasWindow s.cfg 0x60000000 then (aliasDecode s.cfg 0x60000000).1 else 0x60000000) = false
      ∧ s.engPhase ≠ .idle
      ∧ (if s.engPhase = .aWrite ∨ s.engPhase = .aRead then s.engAlias else s.engAddr) = 0x60000000 := by
  decide +kernel
/-- V-R9: the alias of an unmapped word. -/
theorem witness_UnmappedTransactionFaults_alias_word :
    let s := { inFlight with engPhase := .aWrite, engAddr := 0x40000008, engBit := 0, engAlias := 0x42000100, engWdata := 1 }
    isMapped s.cfg (if inAliasWindow s.cfg 0x42000100 then (aliasDecode s.cfg 0x42000100).1 else 0x42000100) = false
      ∧ s.engPhase ≠ .idle
      ∧ (if s.engPhase = .aWrite ∨ s.engPhase = .aRead then s.engAlias else s.engAddr) = 0x42000100 := by
  decide +kernel
/-- A plain and a volatile word. -/
theorem witness_DirectWriteLosesTheOtherUpdate :
    List.Forall (fun c => let s := { stable c [encode (.setbit 0x50008000 4)] with
          stimuli := [{}, {}, { writes := [(0x50008000, 3)] }] }
        configWf s.cfg = true ∧ Unmarked s ∧ AtRest s ∧ s.seqState = 0x20#6 ∧ s.mem.wf s.cfg = true
          ∧ isEnvWritable s.cfg 0x50008000 = true ∧ OperandsPass s.cfg 0x50008000 4 ∧ OnDirectPath s.cfg 0x50008000
          ∧ inAliasWindow s.cfg 0x50008000 = false)
      [narrow, { narrow with volatileWords := [0x50008000] }] ∧ PlainWord narrow 0x50008000 := by decide +kernel

theorem witness_AliasDecodeInvertsAlias :
    configWf Config.d35 = true ∧ MasksDisjoint Config.d35 ∧ inWindow Config.d35 0x400FFFFC = true
      ∧ (0x400FFFFC#32).extractLsb' 0 2 = 0#2 := by decide +kernel
theorem witness_AliasIsInjectiveOnTheWindow :
    configWf Config.d35 = true ∧ inWindow Config.d35 0x40000000 = true
      ∧ (0x40000000#32).extractLsb' 0 2 = 0#2
      ∧ aliasAddr Config.d35 0x40000000 31 = aliasAddr Config.d35 0x40000000 31 := by decide +kernel
theorem witness_AliasOfByteIsAliasOfWordBit :
    (0x40000000#32).extractLsb' 0 2 = 0#2 ∧ Config.d35.lowMask &&& 3#32 = 3#32
      ∧ Config.d35.highMask &&& 3#32 = 0#32 ∧ aliasAddr Config.d35 0x40000003 7 = 0x4200007C#32 := by decide
theorem witness_AliasWordsTakeTheDirectPath :
    configWf Config.d35 = true ∧ inAliasWindow Config.d35 0x42000000 = true
      ∧ inAliasWindow Config.d35 0x43FFFFFC = true := by decide +kernel
theorem witness_AliasWriteChangesOneBit :
    inFlight.mem.wf inFlight.cfg = true ∧ inAliasWindow inFlight.cfg 0x43FFFFFC = true
      ∧ isMapped inFlight.cfg (aliasDecode inFlight.cfg 0x43FFFFFC).1 = true := by decide +kernel

theorem witness_SequencerNeverGoesBack :
    let s := running Config.d35 0x11 []
    resetRaised s = false ∧ step s = .next (after s) ∧ (after s).seqState = 0x12#6 :=
  ⟨by decide, step_after (by decide +kernel), by decide +kernel⟩
theorem witness_SequencerNeverGoesBack_stable :
    let s := stable Config.d35 [0x050000000000#48]
    resetRaised s = false ∧ step s = .next (after s) ∧ s.seqState = 0x20#6 :=
  ⟨by decide, step_after (by decide +kernel), by decide⟩
theorem witness_ClockStateIsWrittenByRecordOnly :
    let s := running Config.d35 0x12 []
    resetRaised s = false ∧ step s = .next (after s) ∧ (after s).clockHz = some 72000000#32 :=
  ⟨by decide, step_after (by decide +kernel), by decide +kernel⟩
/-- The first and the last word-writing state, the register a plain word and an alias word. -/
theorem witness_WordStatesWriteOneWord :
    (∀ c ∈ [Config.d35, aliased],
      (0x02#6, c.map.base + 0x20#32, 0#32, 0x03#6) ∈ wordRows c ∧ SeqAt 0x02#6 (running c 0x02 [])
      ∧ (0x1E#6, c.map.base + 0xC4#32, 1#32, 0x1F#6) ∈ wordRows c ∧ SeqAt 0x1E#6 (running c 0x1E [])
      ∧ isMapped c (targetWord c (c.map.base + 0x20#32)) = true ∧ isMapped c (targetWord c (c.map.base + 0xC4#32)) = true
      ∧ (running c 0x02 []).mem.wf c = true)
    ∧ inAliasWindow Config.d35 0x40048020 = false ∧ inAliasWindow aliased 0x42000020 = true := by decide +kernel
/-- R148 at its boundary: a crystal at the threshold, and one strictly above it with the bypass on. -/
theorem witness_WordStatesWriteOneWord_osc :
    List.Forall (fun p => let c := { Config.d35 with fXtal := p.1, oscBypass := p.2.1 }
        (0x02#6, 0x40048020#32, p.2.2, 0x03#6) ∈ wordRows c ∧ SeqAt 0x02#6 (running c 0x02 []))
      [(20000000, 0, 0#32), (20000001, 0, 2#32), (20000001, 1, 3#32)] := by decide +kernel
/-- `PDRUNCFG` in the window; outside it, plain; outside it, an alias word. -/
theorem witness_PowerUpStatesClearOneBit :
    (∀ c ∈ [Config.d35, outside, aliased],
      List.Forall (fun p => p ∈ powerRows c ∧ SeqAt p.1 (running c p.1 []))
        [(0x01#6, 5#5, 0x02#6), (0x09#6, 7#5, 0x0A#6), (0x18#6, 8#5, 0x19#6)]
      ∧ (running c 0x01 []).mem.wf c = true)
    ∧ inWindow Config.d35 (Config.d35.map.base + Config.d35.map.pdRunCfg) = true ∧ MasksDisjoint Config.d35
    ∧ OnDirectPath outside (outside.map.base + outside.map.pdRunCfg)
    ∧ PlainWord outside (outside.map.base + outside.map.pdRunCfg)
    ∧ OnDirectPath aliased (aliased.map.base + aliased.map.pdRunCfg)
    ∧ inAliasWindow aliased (aliased.map.base + aliased.map.pdRunCfg) = true := by decide +kernel
/-- Every poll of the table, volatile and in the window, for a 1 and for a 0. -/
theorem witness_PollMovesOnExactlyOnOne :
    List.Forall (fun p => p ∈ pollRows usb ∧ SeqAt p.1 (running usb p.1 [1]) ∧ EngineReaches usb p.2.1
        ∧ engineBit (running usb p.1 [1]) p.2.1 p.2.2.1 = true
        ∧ engineBit (running usb p.1 [2]) p.2.1 p.2.2.1 = false)
      [(0x08#6, 0x40048044#32, 0#5, 0x09#6), (0x0B#6, 0x4004800C#32, 0#5, 0x0C#6),
       (0x10#6, 0x40048074#32, 0#5, 0x11#6), (0x17#6, 0x4004804C#32, 0#5, 0x18#6),
       (0x1A#6, 0x40048014#32, 0#5, 0x1B#6), (0x1F#6, 0x400480C4#32, 0#5, 0x20#6)] := by
  decide +kernel
/-- The lock poll in the window and not volatile; outside it, volatile and not; of an alias word. -/
theorem witness_PollMovesOnExactlyOnOne_paths :
    List.Forall (fun p => (0x0B#6, p.2, 0#5, 0x0C#6) ∈ pollRows p.1 ∧ SeqAt 0x0B#6 (running p.1 0x0B [1])
        ∧ EngineReaches p.1 p.2)
      [({ usb with volatileWords := [] }, 0x4004800C#32), (outside, 0x5001000C#32),
       ({ outside with volatileWords := [] }, 0x5001000C#32), (aliased, 0x4200000C#32)] := by decide +kernel
/-- Two zero reads and a further one to come: drawn in the window, drawn outside it, and of memory. -/
theorem witness_PollOfZerosWaitsOn :
    List.Forall (fun p => let s := running p.1 0x0B [0, 0xFFFFFFFE, 1]
        (0x0B#6, p.2, 0#5, 0x0C#6) ∈ pollRows s.cfg ∧ SeqAt 0x0B#6 s ∧ EngineReaches s.cfg p.2
        ∧ ∀ k < 2, engineBit (skipDraws (k * drawsOf s.cfg (busAddress s.cfg p.2 0)) s) p.2 0 = false)
      [(Config.d35, 0x4004800C#32), (outside, 0x5001000C#32), ({ outside with volatileWords := [] }, 0x5001000C#32)] := by
  decide +kernel
/-- The first and the last handshake, volatile in the window with one zero read before the 1; and of registers that are
not volatile, whose own write the first read returns. -/
theorem witness_HandshakeWritesThenPolls :
    List.Forall (fun p => let s := running p.1 p.2.2.1 [0, 1]
        let k := p.2.2.2.2.1
        let m := drawsOf s.cfg (busAddress s.cfg k.addr k.bit)
        let w := after (after (after s))
        p.2.2 ∈ handshakeRows s.cfg ∧ SeqAt p.2.2.1 s ∧ isMapped s.cfg (targetWord s.cfg p.2.2.2.1) = true
        ∧ EngineReaches s.cfg k.addr ∧ s.mem.wf s.cfg = true
        ∧ (∀ i < p.2.1, engineBit (skipDraws (i * m) w) k.addr k.bit = false)
        ∧ engineBit (skipDraws (p.2.1 * m) w) k.addr k.bit = true)
      [(usb, 1, 0x05#6, 0x40048044#32, { addr := 0x40048044 }, 0x09#6),
       (usb, 1, 0x1C#6, 0x400480C4#32, { addr := 0x400480C4 }, 0x20#6),
       ({ outside with volatileWords := [] }, 0, 0x0D#6, 0x50010074#32, { addr := 0x50010074 }, 0x11#6)] := by
  decide +kernel
/-- The three clauses: at the count's end, before it, and from 0. -/
theorem witness_SettleTakesIterPlusOneSteps :
    List.Forall (fun n => SeqAt 0x03#6 { running Config.d35 0x03 [] with settleCnt := n }) [2#32, 1#32, 0#32]
      ∧ Config.d35.oscSettleIter = 2#32 := by decide +kernel
/-- With and without the USB domain. -/
theorem witness_RecordStoresTheFrequency :
    SeqAt 0x12#6 (running Config.d35 0x12 []) ∧ Config.d35.usbEnable = false ∧ SeqAt 0x12#6 (running usb 0x12 [])
      ∧ usb.usbEnable = true := by decide +kernel
theorem witness_InitclkTraceUnderTheDefaults :
    let s := { State.reset with reqs := [0x040000000000#48], draws := [0, 1, 0, 0, 1, 1] }
    (ReadyPreInit s ∧ s.cfg = { Config.d35 with oscSettleIter := 2, mapped := Config.d35.mapped }
      ∧ s.draws = [0] ++ 1 :: ([0, 0] ++ 1 :: ([] ++ 1 :: [])) ∧ (1#32).getLsbD 0 = true)
      ∧ (∀ d ∈ [0#32] ++ [0, 0] ++ [], d.getLsbD 0 = false) := ⟨by decide +kernel, by simp⟩

theorem witness_ResetStepDiscardsTheOperation :
    let s := { inFlight with stimuli := [{ rst := true, req := some 0x1, writes := [(0x50008000, 3)] }] }
    configWf s.cfg = true ∧ resetRaised s = true := by decide +kernel
/-- A plain, a volatile and an alias word. -/
theorem witness_ResetBetweenHalvesLeavesTheBitClear :
    List.Forall (fun p => let s := { stable p.1 [encode (.wrbit p.2 3 true)] with stimuli := [{}, {}, {}, { rst := true }] }
        configWf s.cfg = true ∧ Unmarked s ∧ AtRest s ∧ s.seqState = 0x20#6 ∧ s.mem.wf s.cfg = true
          ∧ OperandsPass s.cfg p.2 3 ∧ OnDirectPath s.cfg p.2)
      directWords ∧ PlainWord narrow 0x50008000 := by decide +kernel
/-- A client's operation in flight, and the bring-up's. -/
theorem witness_EveryStepKeepsTheInvariant :
    invariant inFlight = true ∧ (∃ t, step inFlight = .next t)
      ∧ invariant (running Config.d35 0x04 []) = true ∧ (∃ t, step (running Config.d35 0x04 []) = .next t) :=
  ⟨by decide +kernel, ⟨_, step_after (by decide +kernel)⟩, by decide +kernel, ⟨_, step_after (by decide +kernel)⟩⟩
/-- The five clauses: an unused code; issued, neither in flight nor done; a word state with a phase in flight; a poll with a
write of it in flight; a power-up with another bit's operation in flight. -/
theorem witness_DisagreementRaisesInternalState :
    List.Forall (fun s => configWf s.cfg = true ∧ resetRaised s = false ∧ Unmarked s)
      [{ State.reset with seqState := 0x21 }, { running Config.d35 0x0B [] with seqIssued := true },
       { running Config.d35 0x04 [] with engPhase := .dRead }]
    ∧ (0x20#6 < 0x21#6)
    ∧ (∃ row ∈ wordRows Config.d35, (running Config.d35 0x04 []).seqState = row.1)
    ∧ (let s := { running Config.d35 0x0B [] with
          seqIssued := true, engOwner := .seq, engOp := .rd, engPhase := .dSetW, engAddr := 0x4004800C }
      configWf s.cfg = true ∧ Unmarked s ∧ ∃ row ∈ pollRows s.cfg, s.seqState = row.1 ∧ s.engPhase ≠ .idle
        ∧ s.engPhase ∉ [EngPhase.aRead, .dRead])
    ∧ (let s := { running Config.d35 0x01 [] with
          seqIssued := true, engOwner := .seq, engOp := .clr, engPhase := .aWrite, engAddr := 0x40048238, engBit := 7
          engAlias := 0x4290471C }
      configWf s.cfg = true ∧ Unmarked s ∧ ∃ row ∈ powerRows s.cfg, s.seqState = row.1 ∧ s.engPhase ≠ .idle
        ∧ s.engBit ≠ row.2.1) := by decide +kernel
theorem witness_InternalStateFaultIsUnreachable :
    invariant inFlight = true ∧ inFlight.fault ≠ some .internalState ∧ (∃ t, step inFlight = .next t) :=
  ⟨by decide +kernel, by decide, ⟨_, step_after (by decide +kernel)⟩⟩
/-- A direct and an alias transaction of the bring-up. -/
theorem witness_BringupIsNeverUnmapped :
    let s := { running Config.d35 0x01 [] with
      seqIssued := true, engOwner := .seq, engOp := .clr, engPhase := .aWrite, engAddr := 0x40048238, engBit := 5
      engAlias := 0x42904714 }
    invariant s = true ∧ seqPhase s = .running ∧ clockWordsPlain s.cfg = true ∧ MasksDisjoint s.cfg
      ∧ resetRaised s = false ∧ (∃ t, step s = .next t) :=
  ⟨by decide +kernel, by decide, by decide +kernel, by decide, by decide, ⟨_, step_after (by decide +kernel)⟩⟩
theorem witness_EveryBusAddressIsAligned :
    invariant inFlight = true ∧ step inFlight = .next (after inFlight)
      ∧ (after inFlight).events = inFlight.events ++ [.busW 0x50008000 0x800000F0, .resp 0] :=
  ⟨by decide +kernel, step_after (by decide +kernel), by decide +kernel⟩

end Sys2Proof.Machine.Tests
end

section
/-! PROOF. A transaction to a word that is not MAPPED faults and does not happen (`20_memory.md` R61): the two bus
transactions, then the engine phase that makes one. -/

namespace Sys2Proof.Machine

/-! ### The bus -/

/-- A bus read of a target that is not MAPPED fails (R61). -/
theorem busRead_unmapped {a : Word} {s : State} (h : isMapped s.cfg (targetWord s.cfg a) = false) :
    busRead a s = .error .unmapped := by
  cases hw : inAliasWindow s.cfg a <;> simp_all [busRead, targetWord]

/-- A bus write of a target that is not MAPPED fails, whatever the data word (R61). -/
theorem busWrite_unmapped {a : Word} {s : State} (h : isMapped s.cfg (targetWord s.cfg a) = false) (v : Word) :
    busWrite a v s = .error .unmapped := by
  cases hw : inAliasWindow s.cfg a <;> simp_all [busWrite, targetWord]

/-! ### The engine -/

/-- The address of an engine phase's transaction: `eng_alias` on the alias path, `eng_addr` else (R106). -/
def phaseAddr (s : State) : Word := if s.engPhase = .aWrite ∨ s.engPhase = .aRead then s.engAlias else s.engAddr

theorem phaseAddr_of_alias_phase {s : State} (h : s.engPhase = .aWrite ∨ s.engPhase = .aRead) :
    phaseAddr s = s.engAlias := if_pos h

theorem phaseAddr_of_direct_phase {s : State} (h : ¬ (s.engPhase = .aWrite ∨ s.engPhase = .aRead)) :
    phaseAddr s = s.engAddr := if_neg h

/-- A phase whose transaction fails raises its fault and changes nothing else (R61, R106). -/
theorem engineStep_of_bus_error {s : State} {f : Fault} (hp : s.engPhase ≠ .idle)
    (hr : busRead (phaseAddr s) s = .error f) (hw : ∀ v, busWrite (phaseAddr s) v s = .error f) :
    engineStep s = raiseFault f s := by
  cases h : s.engPhase
  case idle => exact absurd h hp
  case aWrite =>
    rw [phaseAddr_of_alias_phase (.inl h)] at hw
    simp [engineStep, h, phaseAWrite, hw]
  case aRead =>
    rw [phaseAddr_of_alias_phase (.inr h)] at hr
    simp [engineStep, h, phaseARead, hr]
  all_goals rw [phaseAddr_of_direct_phase (by simp [h])] at hr hw
  case dRead => simp [engineStep, h, phaseDRead, hr]
  case dClrR => simp [engineStep, h, phaseDClrR, hr]
  case dClrW => simp [engineStep, h, phaseDClrW, hw]
  case dSetR => simp [engineStep, h, phaseDSetR, hr]
  case dSetW => simp [engineStep, h, phaseDSetW, hw]

/-- Settles O34: the phase's transaction is the bus read or the bus write of its address, and both fail. -/
theorem unmappedTransactionFaults : Obligations.UnmappedTransactionFaults := by
  intro s a v hm
  refine ⟨busRead_unmapped hm, busWrite_unmapped hm v, fun hp ha => ?_⟩
  subst ha
  exact engineStep_of_bus_error hp (busRead_unmapped hm) (busWrite_unmapped hm)

end Sys2Proof.Machine
end

section
/-! PROOF. The two CBS states that use no bus: the settle tick (`41_clock_sequencer.md` R151) and the record of the
frequency (R160, R161). -/

namespace Sys2Proof.Machine

/-! ### The settle tick -/

/-- The step in `S_OSC_SETTLE` is the settle tick (R141, R151). -/
theorem step_settle {s : State} (h : SeqAt 0x03#6 s) :
    step s = .next (seqSettle .oscSettle { s with rsp := none }) := by
  have ⟨_, _, _, _, _, hs⟩ := h
  have hq : seqOfCode s.seqState = some .oscSettle := hs ▸ seqOfCode_seqCode .oscSettle
  rw [step_seq_fresh (q := .oscSettle) h nofun nofun]
  simp only [seqStep, hq, seqAction]

/-- A tick at the count's end moves to `S_PLLSRC_WR` and changes nothing else (R151). -/
theorem step_settle_leaves {s : State} (h : SeqAt 0x03#6 s) (hn : s.settleCnt = s.cfg.oscSettleIter) :
    step s = .next { s with rsp := none, seqState := 0x04#6 } := by
  rw [step_settle h, seqSettle, if_pos hn]
  rfl

/-- A tick before the count's end counts and changes nothing else (R151). -/
theorem step_settle_counts {s : State} (h : SeqAt 0x03#6 s) (hn : s.settleCnt ≠ s.cfg.oscSettleIter) :
    step s = .next { s with rsp := none, settleCnt := s.settleCnt + 1 } := by
  rw [step_settle h, seqSettle, if_neg hn]

/-- With `n` ticks to count, the state is left after `n + 1` steps (R151). -/
theorem runSteps_settle {s : State} (h : SeqAt 0x03#6 s) (n : Nat)
    (hn : s.settleCnt.toNat + n = s.cfg.oscSettleIter.toNat) :
    runSteps (n + 1) s = .next { s with rsp := none, settleCnt := s.cfg.oscSettleIter, seqState := 0x04#6 } := by
  induction n generalizing s with
  | zero =>
    have hend : s.settleCnt = s.cfg.oscSettleIter := BitVec.eq_of_toNat_eq hn
    rw [runSteps_succ (step_settle_leaves h hend), ← hend]
    rfl
  | succ n ih =>
    have hbefore : s.settleCnt ≠ s.cfg.oscSettleIter := fun e => by rw [e] at hn; omega
    have hcount : (s.settleCnt + 1).toNat + n = s.cfg.oscSettleIter.toNat := by bv_omega
    rw [runSteps_succ (step_settle_counts h hbefore)]
    exact ih (s := { s with rsp := none, settleCnt := s.settleCnt + 1 }) h hcount

/-- Settles O49: the two branches of the tick, and the run by induction on the ticks still to count. -/
theorem settleTakesIterPlusOneSteps : Obligations.SettleTakesIterPlusOneSteps := by
  intro s h
  refine ⟨step_settle_leaves h, step_settle_counts h, fun h0 => runSteps_settle h _ ?_⟩
  simp [h0]

/-! ### The record of the frequency -/

/-- WF7: the three frequencies the main clock is chosen from are below 2^32 (R9). -/
theorem wf7_of_configWf {c : Config} (h : configWf c = true) :
    c.fXtal < 2 ^ 32 ∧ c.fIrc < 2 ^ 32 ∧ fPllOut c < 2 ^ 32 := by
  simp only [configWf, Bool.and_eq_true] at h
  obtain ⟨-, h7⟩ := h
  simpa only [wf7, Bool.and_eq_true, decide_eq_true_eq, and_assoc] using h7

/-- FREQ of a well-formed configuration fits a word, so that recording it loses nothing (R9, R160). -/
theorem freqHz_lt {c : Config} (h : configWf c = true) : freqHz c < 2 ^ 32 := by
  obtain ⟨hx, hi, hp⟩ := wf7_of_configWf h
  have hin : fPllIn c < 2 ^ 32 := by unfold fPllIn; split <;> assumption
  have hmain : fMain c < 2 ^ 32 := by
    unfold fMain
    split
    · exact hi
    · split
      · exact hin
      · exact hp
  exact Nat.lt_of_le_of_lt (Nat.div_le_self _ _) hmain

/-- The step of `S_RECORD` records FREQ and enters the next state (R141, R161). -/
theorem step_record {s : State} (h : SeqAt 0x12#6 s) :
    step s = .next (enter (if s.cfg.usbEnable then .usbsrcWr else .stable)
      { s with rsp := none, clockHz := some (BitVec.ofNat 32 (freqHz s.cfg)) }) := by
  have ⟨_, _, _, _, _, hs⟩ := h
  have hq : seqOfCode s.seqState = some .record := hs ▸ seqOfCode_seqCode .record
  rw [step_seq_fresh (q := .record) h nofun nofun]
  simp only [seqStep, hq, seqAction, seqRecord, seqNext]

/-- Settles O50: FREQ fits the word recorded, and `USB_ENABLE` chooses the state entered. -/
theorem recordStoresTheFrequency : Obligations.RecordStoresTheFrequency := by
  intro s h
  have ⟨⟨hc, _⟩, _⟩ := h
  refine ⟨BitVec.ofNat 32 (freqHz s.cfg), ?_, fun hu => ?_, fun hu => ?_⟩
  · rw [BitVec.toNat_ofNat, Nat.mod_eq_of_lt (freqHz_lt hc)]
    rfl
  · rw [step_record h, hu]
    rfl
  · rw [step_record h, hu]
    rfl

end Sys2Proof.Machine
end

section
/-! PROOF. The marks `refused` and `fault` are sticky (`10_state.md` R29, `70_reset_and_hazards.md` R231): only the reset
step goes on from a marked state, and it leaves both marks as they are. -/

namespace Sys2Proof.Machine

/-- A step of THE BLOCK goes on only from a state in which neither mark is set (R29, R206). -/
theorem unmarked_of_blockStep_next {u t : State} (h : blockStep u = .next t) : Unmarked u := by
  obtain ⟨hrefused, hfault, -⟩ := blockStep_cases h
  exact ⟨hrefused, hfault⟩

/-- A step that goes on leaves both marks as they were, or starts from a state in which neither is set (R29, R231). -/
theorem step_marks_kept_or_unmarked {s t : State} (h : step s = .next t) :
    (t.refused = s.refused ∧ t.fault = s.fault) ∨ Unmarked s := by
  obtain ⟨-, ⟨-, rfl⟩ | ⟨-, hblock⟩⟩ := step_cases h
  case inl => exact .inl ⟨by simp, by simp⟩
  case inr =>
    obtain ⟨hrefused, hfault⟩ := unmarked_of_blockStep_next hblock
    exact .inr ⟨by simpa using hrefused, by simpa using hfault⟩

/-- Settles O9: a mark that is set rules the unmarked case out, so the step keeps it. -/
theorem marksAreNeverCleared : Obligations.MarksAreNeverCleared := by
  intro s t h
  obtain ⟨hrefused, hfault⟩ | ⟨hrefused, hfault⟩ := step_marks_kept_or_unmarked h
  · exact ⟨fun r hr => hrefused.trans hr, fun f hf => hfault.trans hf⟩
  · exact ⟨fun r hr => absurd (hrefused.symm.trans hr) nofun, fun f hf => absurd (hfault.symm.trans hf) nofun⟩

end Sys2Proof.Machine
end

section
/-! PROOF. Decoding and encoding of the request word (`30_encoding.md` R80 to R90): the fields of a packed word, the
three ways a word decodes, and the round trip in both directions. -/

namespace Sys2Proof

/-! ### The fields of a packed word -/

/-- The bits of a packed word, field by field from `ADDR` up (R80). -/
theorem packReq_getLsbD (op : BitVec 3) (v : Bool) (b : BitIndex) (a : Word) (k : Nat) :
    (packReq op v b a).getLsbD k =
      if k < 32 then a.getLsbD k
      else if k < 37 then b.getLsbD (k - 32)
      else if k = 37 then v
      else if k < 40 then false
      else if k < 43 then op.getLsbD (k - 40)
      else false := by
  simp only [packReq, BitVec.getLsbD_append, BitVec.getLsbD_zero, BitVec.getLsbD_ofBool, Nat.sub_sub]
  grind

theorem reqAddr_packReq (op : BitVec 3) (v : Bool) (b : BitIndex) (a : Word) : reqAddr (packReq op v b a) = a := by
  apply BitVec.eq_of_getLsbD_eq
  intro k hk
  simp [reqAddr, packReq_getLsbD, hk]

theorem reqBit_packReq (op : BitVec 3) (v : Bool) (b : BitIndex) (a : Word) : reqBit (packReq op v b a) = b := by
  apply BitVec.eq_of_getLsbD_eq
  intro k hk
  simp only [reqBit, packReq_getLsbD, BitVec.getLsbD_extractLsb']
  grind

theorem reqVal_packReq (op : BitVec 3) (v : Bool) (b : BitIndex) (a : Word) : reqVal (packReq op v b a) = v := by
  simp only [reqVal, packReq_getLsbD]
  rfl

theorem reqOp_packReq (op : BitVec 3) (v : Bool) (b : BitIndex) (a : Word) : reqOp (packReq op v b a) = op := by
  apply BitVec.eq_of_getLsbD_eq
  intro k hk
  simp only [reqOp, packReq_getLsbD, BitVec.getLsbD_extractLsb']
  grind

/-- A field is 0 exactly when none of its bits is set. -/
theorem extractLsb'_eq_zero_iff {w : ReqWord} {n len : Nat} :
    w.extractLsb' n len = 0#len ↔ ∀ k, n ≤ k → k < n + len → w.getLsbD k = false := by
  constructor
  · intro h k hn hk
    have e := congrArg (BitVec.getLsbD · (k - n)) h
    simpa [BitVec.getLsbD_extractLsb', show k - n < len by omega, show n + (k - n) = k by omega] using e
  · intro h
    apply BitVec.eq_of_getLsbD_eq
    intro k hk
    simpa [BitVec.getLsbD_extractLsb', hk] using h (n + k) (by omega) (by omega)

theorem reservedClear_packReq (op : BitVec 3) (v : Bool) (b : BitIndex) (a : Word) :
    reservedClear (packReq op v b a) = true := by
  simp only [reservedClear, Bool.and_eq_true, beq_iff_eq, extractLsb'_eq_zero_iff, packReq_getLsbD]
  grind

/-- A word whose reserved bits are clear is packed from its own fields (R80). -/
theorem packReq_fields {w : ReqWord} (h : reservedClear w = true) :
    packReq (reqOp w) (reqVal w) (reqBit w) (reqAddr w) = w := by
  simp only [reservedClear, Bool.and_eq_true, beq_iff_eq, extractLsb'_eq_zero_iff] at h
  obtain ⟨h38, h43⟩ := h
  apply BitVec.eq_of_getLsbD_eq
  intro k hk
  rw [packReq_getLsbD]
  simp only [reqOp, reqVal, reqBit, reqAddr, BitVec.getLsbD_extractLsb']
  grind

/-! ### The three ways a word decodes -/

/-- The values of `OP`. -/
theorem op_cases (op : BitVec 3) :
    op = 0#3 ∨ op = 1#3 ∨ op = 2#3 ∨ op = 3#3 ∨ op = 4#3 ∨ op = 5#3 ∨ op = 6#3 ∨ op = 7#3 := by
  revert op
  decide

/-- A word decodes to its `OP`'s operation when the `OP` is reserved or the reserved and unused bits are clear (R89). -/
theorem decode_eq_ok_iff (w : ReqWord) (i : Instr) :
    decode w = .ok i ↔
      i = operationOf (reqOp w) w
        ∧ ((reqOp w = 6#3 ∨ reqOp w = 7#3) ∨ (reservedClear w = true ∧ unusedClear w = true)) := by
  unfold decode
  grind

theorem decode_eq_error_iff (w : ReqWord) :
    decode w = .error .reservedBits ↔
      ¬ (reqOp w = 6#3 ∨ reqOp w = 7#3) ∧ ¬ (reservedClear w = true ∧ unusedClear w = true) := by
  unfold decode
  grind

/-! ### Decoding an encoded operation -/

theorem decode_packReq {op : BitVec 3} {v : Bool} {b : BitIndex} {a : Word}
    (h : unusedClear (packReq op v b a) = true) :
    decode (packReq op v b a) = .ok (operationOf op (packReq op v b a)) := by
  rw [decode_eq_ok_iff, reqOp_packReq]
  exact ⟨rfl, .inr ⟨reservedClear_packReq .., h⟩⟩

/-- Settles O1: an unreserved operation's word decodes by its fields, a reserved one's by its `OP`. -/
theorem decodeOfEncodeIsTheOperation : Obligations.DecodeOfEncodeIsTheOperation := by
  intro i hi
  cases i
  case reservedOp110 w =>
    have hop : reqOp w = 6#3 := eq_of_beq hi
    rw [encode, decode_eq_ok_iff]
    exact ⟨by simp [operationOf, hop], .inl (.inl hop)⟩
  case reservedOp111 w =>
    have hop : reqOp w = 7#3 := eq_of_beq hi
    rw [encode, decode_eq_ok_iff]
    exact ⟨by simp [operationOf, hop], .inl (.inr hop)⟩
  all_goals
    rw [encode, decode_packReq (by simp [unusedClear, reqOp_packReq, reqVal_packReq, reqAddr_packReq, reqBit_packReq])]
    simp [operationOf, reqVal_packReq, reqAddr_packReq, reqBit_packReq]

/-! ### Encoding a decoded word -/

/-- A field its operation does not use is 0 (R82). -/
theorem unusedClear_iff (w : ReqWord) :
    unusedClear w = true ↔
      reqOp w = 3#3
      ∨ ((reqOp w = 4#3 ∨ reqOp w = 5#3) ∧ reqAddr w = 0#32 ∧ reqBit w = 0#5 ∧ reqVal w = false)
      ∨ (reqOp w ≠ 3#3 ∧ reqOp w ≠ 4#3 ∧ reqOp w ≠ 5#3 ∧ reqVal w = false) := by
  simp only [unusedClear]
  grind

theorem wf_reservedOp110 (w : ReqWord) : (Instr.reservedOp110 w).wf = true ↔ reqOp w = 6#3 := beq_iff_eq

theorem wf_reservedOp111 (w : ReqWord) : (Instr.reservedOp111 w).wf = true ↔ reqOp w = 7#3 := beq_iff_eq

/-- Settles O2: the word is the packing of its own fields, of which the unused are 0. -/
theorem encodeOfDecodeIsTheWord : Obligations.EncodeOfDecodeIsTheWord := by
  intro w i h
  obtain ⟨rfl, hok⟩ := (decode_eq_ok_iff w i).1 h
  by_cases hres : reqOp w = 6#3 ∨ reqOp w = 7#3
  · rcases hres with hop | hop <;> simp [operationOf, hop, wf_reservedOp110, wf_reservedOp111, encode]
  · obtain ⟨hclear, hunused⟩ := hok.resolve_left hres
    have hw := packReq_fields hclear
    rw [unusedClear_iff] at hunused
    rcases op_cases (reqOp w) with hop | hop | hop | hop | hop | hop | hop | hop <;>
      simp_all [operationOf, Instr.wf, encode]

/-! ### The words the decoder rejects -/

/-- Bits 37 to 0 are `VAL`, `BIT` and `ADDR` (R80). -/
theorem lowFields_zero_iff (w : ReqWord) :
    w.extractLsb' 0 38 = 0#38 ↔ reqAddr w = 0#32 ∧ reqBit w = 0#5 ∧ reqVal w = false := by
  simp only [reqAddr, reqBit, reqVal, extractLsb'_eq_zero_iff]
  constructor
  · exact fun h => ⟨fun k _ hk => h k (by omega) (by omega), fun k _ hk => h k (by omega) (by omega),
      h 37 (by decide) (by decide)⟩
  · grind

/-- Settles O3: by the four kinds of `OP`, what the decoder's two checks ask. -/
theorem decoderRejectsExactlyReservedBits : Obligations.DecoderRejectsExactlyReservedBits := by
  intro w
  rw [decode_eq_error_iff, unusedClear_iff, Ne.eq_def (w.extractLsb' 0 38), lowFields_zero_iff]
  simp only [reservedClear, Bool.and_eq_true, beq_iff_eq]
  change _ ↔ (reqOp w ≠ 6#3 ∧ reqOp w ≠ 7#3) ∧ (_ ∨ _ ∨ (reqOp w < 3#3 ∧ reqVal w = true)
    ∨ ((reqOp w = 4#3 ∨ reqOp w = 5#3) ∧ _))
  rcases op_cases (reqOp w) with hop | hop | hop | hop | hop | hop | hop | hop <;> simp [hop] <;> grind

/-! ### The rows of the opcode table -/

/-- A word that agrees with another under a mask of the bits from `n` up, and below `n`, is that word. -/
theorem eq_of_high_mask {w x : ReqWord} {n : Nat} (h : w &&& (BitVec.allOnes 48 <<< n) = x &&& (BitVec.allOnes 48 <<< n))
    (hlow : ∀ k < n, w.getLsbD k = x.getLsbD k) : w = x := by
  apply BitVec.eq_of_getLsbD_eq
  intro k hk
  by_cases hn : k < n
  · exact hlow k hn
  · have e := congrArg (BitVec.getLsbD · k) h
    simpa only [BitVec.getLsbD_and, BitVec.getLsbD_shiftLeft, BitVec.getLsbD_allOnes, hk, hn,
      show k - n < 48 by omega, decide_true, decide_false, Bool.not_false, Bool.and_true] using e

/-- Every well-formed operation's word fits its row (R82, R86). -/
theorem encode_and_rowMask {i : Instr} (hi : i.wf = true) : encode i &&& rowMask i = rowMatch i := by
  cases i with
  | rdbit a b => exact Laws.EncodedInRow.rdbit a b hi
  | setbit a b => exact Laws.EncodedInRow.setbit a b hi
  | clrbit a b => exact Laws.EncodedInRow.clrbit a b hi
  | wrbit a b v => exact Laws.EncodedInRow.wrbit a b v hi
  | initclk => exact Laws.EncodedInRow.initclk hi
  | getfreq => exact Laws.EncodedInRow.getfreq hi
  | reservedOp110 w => exact Laws.EncodedInRow.reservedOp110 w hi
  | reservedOp111 w => exact Laws.EncodedInRow.reservedOp111 w hi

/-- A word that fits the row of an unreserved operation with the word's own fields is that operation's word (R82). -/
theorem encode_of_row {w : ReqWord} {i : Instr} (hrow : w &&& rowMask i = rowMatch i) (hi : i.wf = true)
    (n : Nat) (hmask : rowMask i = BitVec.allOnes 48 <<< n)
    (hlow : ∀ k < n, w.getLsbD k = (encode i).getLsbD k) : encode i = w :=
  (eq_of_high_mask (n := n) (by rw [← hmask, hrow, encode_and_rowMask hi]) hlow).symm

/-- A word fits a row exactly when it decodes to the row's operation, given that it then is the operation's word. -/
theorem row_iff_decode {w : ReqWord} {i : Instr} (hi : i.wf = true)
    (h : w &&& rowMask i = rowMatch i → encode i = w) : w &&& rowMask i = rowMatch i ↔ decode w = .ok i := by
  constructor
  · intro hrow
    rw [← h hrow]
    exact decodeOfEncodeIsTheOperation i hi
  · intro hdec
    obtain ⟨hwf, rfl⟩ := encodeOfDecodeIsTheWord w i hdec
    exact encode_and_rowMask hwf

/-- A row of a bit operation but `WRBIT`: its word has the row's `OP` and no `VAL`. -/
theorem encode_of_bitOp_row {w : ReqWord} {i : Instr} {op : BitVec 3}
    (hi : i.wf = true) (henc : encode i = packReq op false (reqBit w) (reqAddr w))
    (hmask : rowMask i = 0xFFE000000000) (hrow : w &&& rowMask i = rowMatch i) : encode i = w := by
  refine encode_of_row hrow hi 37 (hmask.trans (by decide)) fun k hk => ?_
  rw [henc, packReq_getLsbD]
  simp only [reqBit, reqAddr, BitVec.getLsbD_extractLsb']
  grind

/-- A word that fits the row of `WRBIT` is the word of `WRBIT` with the word's own fields. -/
theorem encode_of_wrbit_row {w : ReqWord} (hrow : w &&& 0xFFC000000000#48 = 0x030000000000#48) :
    encode (.wrbit (reqAddr w) (reqBit w) (reqVal w)) = w := by
  refine encode_of_row (i := .wrbit (reqAddr w) (reqBit w) (reqVal w)) hrow rfl 38
    (show 0xFFC000000000#48 = _ by decide) fun k hk => ?_
  rw [encode, packReq_getLsbD]
  simp only [reqVal, reqBit, reqAddr, BitVec.getLsbD_extractLsb']
  grind

/-- A word whose bits under the mask of `OP` are an `OP`'s has that `OP`. -/
theorem op_of_row {w : ReqWord} {op : BitVec 3} (h : w &&& 0x070000000000#48 = op.setWidth 48 <<< 40) :
    reqOp w = op := by
  rw [show 0x070000000000#48 = (BitVec.allOnes 3).setWidth 48 <<< 40 by decide] at h
  apply BitVec.eq_of_getLsbD_eq
  intro k hk
  have e := congrArg (BitVec.getLsbD · (40 + k)) h
  simp only [BitVec.getLsbD_and, BitVec.getLsbD_shiftLeft, BitVec.getLsbD_setWidth, BitVec.getLsbD_allOnes] at e
  simp only [reqOp, BitVec.getLsbD_extractLsb']
  grind

/-- Settles O4: a word that fits a row is the row's operation's word with the word's own fields, and the round trip
of O1 and O2 does the rest. -/
theorem opcodeTableRowsDecode : Obligations.OpcodeTableRowsDecode := by
  intro w
  refine ⟨?_, ?_, ?_, ?_, ?_, ?_, ?_, ?_⟩
  · exact row_iff_decode (i := .rdbit (reqAddr w) (reqBit w)) rfl (encode_of_bitOp_row rfl rfl rfl)
  · exact row_iff_decode (i := .setbit (reqAddr w) (reqBit w)) rfl (encode_of_bitOp_row rfl rfl rfl)
  · exact row_iff_decode (i := .clrbit (reqAddr w) (reqBit w)) rfl (encode_of_bitOp_row rfl rfl rfl)
  · exact row_iff_decode (i := .wrbit (reqAddr w) (reqBit w) (reqVal w)) rfl encode_of_wrbit_row
  · exact ⟨fun h => h ▸ decodeOfEncodeIsTheOperation .initclk rfl, fun h => (encodeOfDecodeIsTheWord w _ h).2.symm⟩
  · exact ⟨fun h => h ▸ decodeOfEncodeIsTheOperation .getfreq rfl, fun h => (encodeOfDecodeIsTheWord w _ h).2.symm⟩
  · constructor
    · exact fun h => decodeOfEncodeIsTheOperation (.reservedOp110 w) ((wf_reservedOp110 w).2 (op_of_row h))
    · exact fun h => encode_and_rowMask (i := .reservedOp110 w) (encodeOfDecodeIsTheWord w _ h).1
  · constructor
    · exact fun h => decodeOfEncodeIsTheOperation (.reservedOp111 w) ((wf_reservedOp111 w).2 (op_of_row h))
    · exact fun h => encode_and_rowMask (i := .reservedOp111 w) (encodeOfDecodeIsTheWord w _ h).1

/-- Settles O5: by evaluation of the decoder on the ten words. -/
theorem workedEncodingsDecode : Obligations.WorkedEncodingsDecode := by
  unfold Obligations.WorkedEncodingsDecode
  decide

end Sys2Proof
end

section
/-! PROOF. What a step can do, case by case with the transaction it makes (`60_exceptions.md` R206, `40_bit_access.md` R106,
`41_clock_sequencer.md` R141), and what follows for every step: the configuration, the events, memory, the CBS's progress and
ClockState. -/

namespace Sys2Proof.Machine

/-! ### The outcomes of an engine phase, of a CBS state, of an accepting step -/

/-- A phase that reads a word for a direct write, and the phase that writes it (R106). -/
inductive ReadThenWrite : EngPhase → EngPhase → Prop where
  | clear : ReadThenWrite .dClrR .dClrW
  | set : ReadThenWrite .dSetR .dSetW

/-- What the step of a phase in flight can lead to: each phase makes one transaction at its address (R106, R107). -/
inductive EngineOutcome (s : State) : State → Prop where
  | unmapped (hmap : isMapped s.cfg (targetWord s.cfg (phaseAddr s)) = false) : EngineOutcome s (raiseFault .unmapped s)
  | readsForWrite {p : EngPhase} {v : Word} {u : State} (hp : ReadThenWrite s.engPhase p)
      (hread : busRead (phaseAddr s) s = .ok (v, u)) : EngineOutcome s { u with engTmp := v, engPhase := p }
  | readsAndCompletes {v : Word} {u : State} (r : Bool) (hread : busRead (phaseAddr s) s = .ok (v, u)) :
      EngineOutcome s (complete { u with engResult := r })
  | beginsSetHalf {v : Word} {u : State} (hp : s.engPhase = .dClrW) (hop : s.engOp = .wr) (hval : s.engVal = true)
      (hwrite : busWrite (phaseAddr s) v s = .ok u) : EngineOutcome s { u with engPhase := .dSetR }
  | writesAndCompletes {v : Word} {u : State} (hwrite : busWrite (phaseAddr s) v s = .ok u) :
      EngineOutcome s (complete u)

/-- What a step of the CBS with the engine idle can lead to, in the state of its code (R141, R145, R146, R151, R161). -/
inductive SeqOutcome (s : State) (q : SeqState) : State → Prop where
  | rests (ha : seqAction s.cfg q = .rest) : SeqOutcome s q s
  | issues {op : EngOp} {a : Word} {b : BitIndex} (ha : seqAction s.cfg q = .eng op a b) (hi : s.seqIssued = false) :
      SeqOutcome s q { issue .seq op a b false s with seqIssued := true }
  | consumes {op : EngOp} {a : Word} {b : BitIndex} (ha : seqAction s.cfg q = .eng op a b) (hd : s.engDone = true) :
      SeqOutcome s q (enter (seqNext s.cfg s.engResult q) { s with engDone := false, seqIssued := false })
  | disagrees (hi : s.seqIssued = true) (hd : s.engDone = false) : SeqOutcome s q (raiseFault .internalState s)
  | writes {a v : Word} {u : State} (n : Word) (ha : seqAction s.cfg q = .word a v) (hwrite : busWrite a v s = .ok u) :
      SeqOutcome s q (enter (seqNext s.cfg false q) { u with settleCnt := n })
  | unmapped {a v : Word} (ha : seqAction s.cfg q = .word a v) (hmap : isMapped s.cfg (targetWord s.cfg a) = false) :
      SeqOutcome s q (raiseFault .unmapped s)
  | ticks (ha : seqAction s.cfg q = .settle) : SeqOutcome s q { s with settleCnt := s.settleCnt + 1 }
  | settles (ha : seqAction s.cfg q = .settle) : SeqOutcome s q (enter (seqNext s.cfg false q) s)
  | records (ha : seqAction s.cfg q = .record) :
      SeqOutcome s q (enter (seqNext s.cfg false q) { s with clockHz := some (BitVec.ofNat 32 (freqHz s.cfg)) })

/-- What the accepting step of an operation can lead to (R103, R104, R143, R144). -/
inductive AcceptOutcome (s : State) : State → Prop where
  | refused (r : RefuseReason) : AcceptOutcome s (raiseRefuse r s)
  | unreachable (h : seqPhase s = .running ∨ (seqPhase s = .stable ∧ s.clockHz = none)) :
      AcceptOutcome s (raiseFault .internalState s)
  | issued {a : Word} {b : BitIndex} (op : EngOp) (v : Bool) (hs : seqPhase s = .stable)
      (hchk : operandCheck s.cfg a b = none) :
      AcceptOutcome s (issue .client op a b v { s with clientBusy := true, clientOp := some (clientOpOf op) })
  | starts (hs : seqPhase s = .preInit) :
      AcceptOutcome s { s with clientBusy := true, clientOp := some .initclk, seqState := seqCode .oscPwrup }
  | answers (f : Word) (hs : seqPhase s = .stable) : AcceptOutcome s (respond f s)

/-- A bus read fails only of a target that is not MAPPED (R61). -/
theorem not_mapped_of_busRead_error {a : Word} {s : State} {f : Fault} (h : busRead a s = .error f) :
    isMapped s.cfg (targetWord s.cfg a) = false := by
  by_contra hm
  rw [busRead_answer (by simpa using hm)] at h
  cases h

/-- A bus write fails only of a target that is not MAPPED (R61). -/
theorem not_mapped_of_busWrite_error {a v : Word} {s : State} {f : Fault} (h : busWrite a v s = .error f) :
    isMapped s.cfg (targetWord s.cfg a) = false := by
  by_contra hm
  obtain ⟨t, ht, -⟩ := busWrite_written (v := v) (show isMapped s.cfg (targetWord s.cfg a) = true by simpa using hm)
  rw [ht] at h
  cases h

theorem engineStep_outcome {s : State} (hp : s.engPhase ≠ .idle) : EngineOutcome s (engineStep s) := by
  cases h : s.engPhase
  case idle => exact absurd h hp
  case aWrite =>
    have ha := phaseAddr_of_alias_phase (.inl h)
    simp only [engineStep, h, phaseAWrite, ← ha]
    split
    · exact .writesAndCompletes ‹_›
    · rename_i e; exact busWrite_error e ▸ .unmapped (not_mapped_of_busWrite_error e)
  case aRead =>
    have ha := phaseAddr_of_alias_phase (.inr h)
    simp only [engineStep, h, phaseARead, ← ha]
    split
    · exact .readsAndCompletes _ ‹_›
    · rename_i e; exact busRead_error e ▸ .unmapped (not_mapped_of_busRead_error e)
  all_goals have ha := phaseAddr_of_direct_phase (s := s) (by simp [h])
  case dRead =>
    simp only [engineStep, h, phaseDRead, ← ha]
    split
    · exact .readsAndCompletes _ ‹_›
    · rename_i e; exact busRead_error e ▸ .unmapped (not_mapped_of_busRead_error e)
  case dClrR =>
    simp only [engineStep, h, phaseDClrR, ← ha]
    split
    · exact .readsForWrite (h ▸ .clear) ‹_›
    · rename_i e; exact busRead_error e ▸ .unmapped (not_mapped_of_busRead_error e)
  case dClrW =>
    simp only [engineStep, h, phaseDClrW, ← ha]
    split
    · split
      · rename_i hwr; exact .beginsSetHalf h hwr.1 hwr.2 ‹_›
      · exact .writesAndCompletes ‹_›
    · rename_i e; exact busWrite_error e ▸ .unmapped (not_mapped_of_busWrite_error e)
  case dSetR =>
    simp only [engineStep, h, phaseDSetR, ← ha]
    split
    · exact .readsForWrite (h ▸ .set) ‹_›
    · rename_i e; exact busRead_error e ▸ .unmapped (not_mapped_of_busRead_error e)
  case dSetW =>
    simp only [engineStep, h, phaseDSetW, ← ha]
    split
    · exact .writesAndCompletes ‹_›
    · rename_i e; exact busWrite_error e ▸ .unmapped (not_mapped_of_busWrite_error e)

theorem seqStep_outcome {s : State} {q : SeqState} (hq : seqOfCode s.seqState = some q) :
    SeqOutcome s q (seqStep s) := by
  simp only [seqStep, hq]
  split
  case h_1 ha => exact .rests ha
  case h_2 op a b ha =>
    unfold seqEng
    split
    · exact .issues ha ‹_›
    · split
      · exact .consumes ha ‹_›
      · exact .disagrees (by simpa using ‹¬ s.seqIssued = false›) (by simpa using ‹¬ s.engDone = true›)
  case h_3 a v ha =>
    unfold seqWord
    split
    · exact .writes _ ha ‹_›
    · rename_i e
      obtain rfl := busWrite_error e
      exact .unmapped ha (not_mapped_of_busWrite_error e)
  case h_4 ha =>
    unfold seqSettle
    split
    · exact .settles ha
    · exact .ticks ha
  case h_5 ha => exact .records ha

theorem acceptBitOp_outcome (op : EngOp) (a : Word) (b : BitIndex) (v : Bool) (s : State) :
    AcceptOutcome s (acceptBitOp (clientOpOf op) op a b v s) := by
  unfold acceptBitOp
  split
  · exact .refused _
  · exact .unreachable (.inl ‹_›)
  · split
    · exact .refused _
    · exact .issued op v ‹_› ‹_›

theorem exec_outcome {i : Instr} {s t : State} (h : exec i s = .next t) : AcceptOutcome s t := by
  cases i <;> simp only [exec, execRdbit, execSetbit, execClrbit, execWrbit, execInitclk, execGetfreq, execReservedOp110,
    execReservedOp111] at h
  case rdbit a b => cases h; exact acceptBitOp_outcome .rd a b false s
  case setbit a b => cases h; exact acceptBitOp_outcome .set a b false s
  case clrbit a b => cases h; exact acceptBitOp_outcome .clr a b false s
  case wrbit a b v => cases h; exact acceptBitOp_outcome .wr a b v s
  case initclk =>
    split at h <;> cases h
    · exact .starts ‹_›
    · exact .unreachable (.inl ‹_›)
    · exact .refused _
  case getfreq =>
    split at h
    · cases h; exact .refused _
    · cases h; exact .unreachable (.inl ‹_›)
    · split at h <;> cases h
      · exact .answers _ ‹_›
      · exact .unreachable (.inr ⟨‹_›, ‹_›⟩)
  case reservedOp110 w => cases h; exact .refused _
  case reservedOp111 w => cases h; exact .refused _

/-! ### The outcomes of a step -/

/-- What a step of THE BLOCK that goes on can lead to (R206). -/
inductive BlockOutcome (s : State) : State → Prop where
  | disagrees (hcon : blockConsistent s = false) : BlockOutcome s (raiseFault .internalState s)
  | engine {t : State} (hcon : blockConsistent s = true) (hp : s.engPhase ≠ .idle) (ht : t = engineStep s)
      (h : EngineOutcome s t) : BlockOutcome s t
  | seq {t : State} {q : SeqState} (hcon : blockConsistent s = true) (hp : s.engPhase = .idle)
      (hrun : seqPhase s = .running) (hq : s.seqState = seqCode q) (ht : t = seqStep s) (h : SeqOutcome s q t) :
      BlockOutcome s t
  | refuses {w : ReqWord} {rest : List ReqWord} (hreqs : s.reqs = w :: rest) (hready : reqReady s = true) :
      BlockOutcome s (raiseRefuse .reservedBits { s with reqs := rest })
  | accepts {w : ReqWord} {rest : List ReqWord} {t : State} (hcon : blockConsistent s = true) (hp : s.engPhase = .idle)
      (hrun : seqPhase s ≠ .running) (hreqs : s.reqs = w :: rest) (hready : reqReady s = true)
      (h : AcceptOutcome { s with reqs := rest } t) : BlockOutcome s t
  | waits : BlockOutcome s s

/-- Registers that agree hold the code of a CBS state (R40). -/
theorem seqState_of_blockConsistent {s : State} (h : blockConsistent s = true) : ∃ q, s.seqState = seqCode q := by
  cases hq : seqOfCode s.seqState with
  | none => simp [blockConsistent, hq] at h
  | some q => exact ⟨q, seqCode_of_seqOfCode hq⟩

theorem blockStep_outcome {s t : State} (h : blockStep s = .next t) : BlockOutcome s t := by
  obtain ⟨-, -, h⟩ := blockStep_cases h
  rcases h with ⟨hcon, rfl⟩ | ⟨hcon, ⟨hp, rfl⟩ | ⟨hp, hrun, rfl⟩ | ⟨hp, hrun, hclient⟩⟩
  · exact .disagrees hcon
  · exact .engine hcon hp rfl (engineStep_outcome hp)
  · obtain ⟨q, hq⟩ := seqState_of_blockConsistent hcon
    exact .seq hcon hp hrun hq rfl (seqStep_outcome (by rw [hq, seqOfCode_seqCode]))
  · rcases hclient with ⟨w, rest, hreqs, hready, ⟨-, rfl⟩ | ⟨i, -, hexec⟩⟩ | ⟨-, rfl⟩
    · exact .refuses hreqs hready
    · exact .accepts hcon hp hrun hreqs hready (exec_outcome hexec)
    · exact .waits

/-- A step without reset that goes on is THE BLOCK's, from the state the environment leaves. -/
theorem step_outcome {s t : State} (hr : resetRaised s = false) (h : step s = .next t) : BlockOutcome (absorb s) t := by
  obtain ⟨-, ⟨hreset, -⟩ | ⟨-, hblock⟩⟩ := step_cases h
  · rw [hr] at hreset; cases hreset
  · exact blockStep_outcome hblock

/-! ### What no step changes -/

theorem BlockOutcome.cfg_eq {s t : State} (h : BlockOutcome s t) : t.cfg = s.cfg := by
  cases h with
  | disagrees => rfl
  | engine _ _ ht => rw [ht, engineStep_frame]
  | seq _ _ _ _ ht => rw [ht, seqStep_frame]
  | refuses => rfl
  | accepts _ _ _ _ _ h => cases h <;> rfl
  | waits => rfl

/-- Settles O13: neither the environment, nor the reset, nor a step of THE BLOCK writes it. -/
theorem noStepWritesTheConfiguration : Obligations.NoStepWritesTheConfiguration := by
  intro s t h
  obtain ⟨-, ⟨-, rfl⟩ | ⟨-, hblock⟩⟩ := step_cases h
  · rfl
  · exact (blockStep_outcome hblock).cfg_eq

/-! ### The events of a step -/

/-- The events one step can add, when its transaction is at `a` (R5, R51). -/
inductive StepEvents (a : Word) : List Event → Prop where
  | nothing : StepEvents a []
  | response (d : Word) : StepEvents a [.resp d]
  | read (v : Word) : StepEvents a [.busR a v]
  | readAndResponse (v d : Word) : StepEvents a [.busR a v, .resp d]
  | write (v : Word) : StepEvents a [.busW a v]
  | writeAndResponse (v d : Word) : StepEvents a [.busW a v, .resp d]

/-- The address of the step's transaction, where it makes one: the engine phase's, or that of the CBS state's word. -/
def transactionAddr (s : State) : Word :=
  if s.engPhase ≠ .idle then phaseAddr s
  else
    match (seqOfCode s.seqState).map (seqAction s.cfg) with
    | some (.word a _) => a
    | _ => 0

theorem transactionAddr_of_engine {s : State} (h : s.engPhase ≠ .idle) : transactionAddr s = phaseAddr s := if_pos h

theorem transactionAddr_of_word {s : State} {q : SeqState} {a v : Word} (hp : s.engPhase = .idle)
    (hq : s.seqState = seqCode q) (ha : seqAction s.cfg q = .word a v) : transactionAddr s = a := by
  simp [transactionAddr, hp, hq, ha]

theorem complete_events (s : State) :
    (complete s).events = s.events ∨ ∃ d, (complete s).events = s.events ++ [.resp d] := by
  rcases complete_cases s with ⟨-, h⟩ | ⟨-, h⟩ <;> rw [h]
  · exact .inr ⟨_, rfl⟩
  · exact .inl rfl

theorem enter_events (q : SeqState) (s : State) :
    (enter q s).events = s.events ∨ (enter q s).events = s.events ++ [.resp 0] := by
  rcases enter_cases q s with ⟨-, h⟩ | ⟨-, h⟩ <;> rw [h]
  · exact .inr rfl
  · exact .inl rfl

theorem busRead_events {a v : Word} {s u : State} (h : busRead a s = .ok (v, u)) :
    u.events = s.events ++ [.busR a v] := by rw [busRead_frame h]

theorem busWrite_events {a v : Word} {s u : State} (h : busWrite a v s = .ok u) :
    u.events = s.events ++ [.busW a v] := by rw [busWrite_frame h]

/-- An engine phase adds its transaction and, when it completes the client's operation, the response. -/
theorem EngineOutcome.events {s t : State} (h : EngineOutcome s t) :
    ∃ new, t.events = s.events ++ new ∧ StepEvents (phaseAddr s) new := by
  cases h with
  | unmapped => exact ⟨[], by simp, .nothing⟩
  | readsForWrite _ hread => exact ⟨_, (busRead_events hread :), .read _⟩
  | @readsAndCompletes v u r hread =>
    rcases complete_events { u with engResult := r } with he | ⟨d, he⟩
    · exact ⟨_, he.trans (busRead_events hread :), .read v⟩
    · exact ⟨_, by rw [he, busRead_events hread, List.append_assoc]; rfl, .readAndResponse v d⟩
  | beginsSetHalf _ _ _ hwrite => exact ⟨_, (busWrite_events hwrite :), .write _⟩
  | @writesAndCompletes v u hwrite =>
    rcases complete_events u with he | ⟨d, he⟩
    · exact ⟨_, he.trans (busWrite_events hwrite :), .write v⟩
    · exact ⟨_, by rw [he, busWrite_events hwrite, List.append_assoc]; rfl, .writeAndResponse v d⟩

/-- Entering a CBS state after no event adds at most the response to `INITCLK` (R164). -/
theorem enter_stepEvents (a : Word) (q : SeqState) {s u : State} (h : u.events = s.events) :
    ∃ new, (enter q u).events = s.events ++ new ∧ StepEvents a new := by
  rcases enter_events q u with he | he <;> rw [he, h]
  · exact ⟨[], by simp, .nothing⟩
  · exact ⟨_, rfl, .response 0⟩

/-- A CBS step adds its word write, if its state writes one, and the response of entering `S_STABLE`. -/
theorem SeqOutcome.events {s t : State} {q : SeqState} (hp : s.engPhase = .idle) (hq : s.seqState = seqCode q)
    (h : SeqOutcome s q t) : ∃ new, t.events = s.events ++ new ∧ StepEvents (transactionAddr s) new := by
  cases h with
  | rests | issues | disagrees | unmapped | ticks => exact ⟨[], by simp, .nothing⟩
  | consumes | settles | records => exact enter_stepEvents _ _ rfl
  | @writes a v u n ha hwrite =>
    rw [transactionAddr_of_word hp hq ha]
    rcases enter_events (seqNext s.cfg false q) { u with settleCnt := n } with he | he
    · exact ⟨_, he.trans (busWrite_events hwrite :), .write v⟩
    · exact ⟨_, by rw [he, busWrite_events hwrite, List.append_assoc]; rfl, .writeAndResponse v 0⟩

theorem AcceptOutcome.events {s t : State} (a : Word) (h : AcceptOutcome s t) :
    ∃ new, t.events = s.events ++ new ∧ StepEvents a new := by
  cases h with
  | refused | unreachable | issued | starts => exact ⟨[], by simp, .nothing⟩
  | answers f => exact ⟨_, rfl, .response f⟩

theorem BlockOutcome.events {s t : State} (h : BlockOutcome s t) :
    ∃ new, t.events = s.events ++ new ∧ StepEvents (transactionAddr s) new := by
  cases h with
  | disagrees | refuses | waits => exact ⟨[], by simp, .nothing⟩
  | engine _ hp _ h => rw [transactionAddr_of_engine hp]; exact h.events
  | seq _ hp _ hq _ h => exact h.events hp hq
  | accepts _ _ _ _ _ h => exact h.events _

/-- A step adds to the events what one transaction and one response add; the reset step nothing. -/
theorem step_events {s t : State} (h : step s = .next t) :
    ∃ new, t.events = s.events ++ new ∧ StepEvents (transactionAddr (absorb s)) new := by
  obtain ⟨-, ⟨-, rfl⟩ | ⟨-, hblock⟩⟩ := step_cases h
  · exact ⟨[], by simp, .nothing⟩
  · exact (blockStep_outcome hblock).events

/-- Settles O14: each way a step adds events counts at most one of each kind. -/
theorem oneTransactionPerStep : Obligations.OneTransactionPerStep := by
  intro s t h
  obtain ⟨new, hnew, hkind⟩ := step_events h
  refine ⟨new, hnew, ?_⟩
  cases hkind <;> exact ⟨by simp [isBusEvent, List.filter], by simp [isBusEvent, List.filter]⟩

/-! ### Memory -/

theorem complete_mem (s : State) : (complete s).mem = s.mem := by rw [complete_frame]

theorem enter_mem (q : SeqState) (s : State) : (enter q s).mem = s.mem := by rw [enter_frame]

theorem busRead_mem {a v : Word} {s u : State} (h : busRead a s = .ok (v, u)) : u.mem = s.mem := by
  rw [busRead_frame h]

/-- A step of THE BLOCK leaves memory as it was, or makes a bus write, records it first, and leaves memory as that
write does (R52, R53). -/
theorem BlockOutcome.mem {s t : State} (h : BlockOutcome s t) :
    t.mem = s.mem
      ∨ ∃ a v u rest, busWrite a v s = .ok u ∧ t.mem = u.mem ∧ t.events = s.events ++ .busW a v :: rest := by
  have written : ∀ {a v : Word} {u : State}, busWrite a v s = .ok u → ∀ {x : State}, x.mem = u.mem →
      (x.events = u.events ∨ ∃ d, x.events = u.events ++ [.resp d]) →
      ∃ a v u rest, busWrite a v s = .ok u ∧ x.mem = u.mem ∧ x.events = s.events ++ .busW a v :: rest := by
    intro a v u hwrite x hmem hev
    rw [busWrite_events hwrite] at hev
    rcases hev with he | ⟨d, he⟩
    · exact ⟨a, v, u, [], hwrite, hmem, he⟩
    · exact ⟨a, v, u, [.resp d], hwrite, hmem, by rw [he, List.append_assoc]; rfl⟩
  cases h with
  | disagrees | refuses | waits => exact .inl rfl
  | engine _ _ _ h =>
    cases h with
    | unmapped => exact .inl rfl
    | readsForWrite _ hread => exact .inl (busRead_mem hread :)
    | readsAndCompletes _ hread => exact .inl ((complete_mem _).trans (busRead_mem hread :))
    | beginsSetHalf _ _ _ hwrite => exact .inr (written hwrite rfl (.inl rfl))
    | writesAndCompletes hwrite => exact .inr (written hwrite (complete_mem _) (complete_events _))
  | seq _ _ _ _ _ h =>
    cases h with
    | rests | issues | disagrees | unmapped | ticks => exact .inl rfl
    | consumes | settles | records => exact .inl (enter_mem _ _)
    | writes n _ hwrite =>
      exact .inr (written hwrite (enter_mem _ _) ((enter_events _ _).imp id fun he => ⟨0, he⟩))
  | accepts _ _ _ _ _ h => cases h <;> exact .inl rfl

/-- The environment's last change of a word is what the word then holds (R63). -/
theorem readWord_envWrite_last {c : Config} {m : Memory} (hm : m.wf c = true) (ws : List (Word × Word)) {w v : Word}
    (he : isEnvWritable c w = true) (ha : wordAligned w = true) :
    readWord c ((ws ++ [(w, v)]).foldl (envWrite c) m) w = v := by
  have hfold : ∀ (ws : List (Word × Word)) (m : Memory), m.wf c = true → Memory.wf (ws.foldl (envWrite c) m) c = true := by
    intro ws
    induction ws with
    | nil => exact fun _ hm => hm
    | cons p ws ih => exact fun _ hm => ih _ (envWrite_wf hm p)
  rw [List.foldl_append]
  simp only [List.foldl_cons, List.foldl_nil, envWrite, he, ha, Bool.and_self, if_true]
  exact readWord_writeWord_same (hfold ws m hm) w v

/-- The environment leaves every byte that is of no word it may change (R63). -/
theorem memByte_absorb_other {s : State} {x : Nat} (h : OutsideEnvWords s.cfg x) : memByte (absorb s) x = memByte s x := by
  have hfold : ∀ (ws : List (Word × Word)) (m : Memory),
      readByte s.cfg (ws.foldl (envWrite s.cfg) m) x = readByte s.cfg m x := by
    intro ws
    induction ws with
    | nil => exact fun _ => rfl
    | cons p ws ih => exact fun m => (ih _).trans (readByte_envWrite_other m p h)
  exact hfold _ _

/-- Settles O15: the environment's part by its list of changes, THE BLOCK's by its one bus write. -/
theorem memoryChangesOnlyByBusWrites : Obligations.MemoryChangesOnlyByBusWrites := by
  intro s
  refine ⟨fun x hx => memByte_absorb_other hx, fun ws w v hws he ha hm => ?_, fun t h => ?_⟩
  · rw [memWord, absorb_mem, hws]
    exact readWord_envWrite_last hm ws he ha
  · obtain ⟨-, ⟨-, rfl⟩ | ⟨-, hblock⟩⟩ := step_cases h
    · exact .inl rfl
    · refine (blockStep_outcome hblock).mem.imp id ?_
      rintro ⟨a, v, u, rest, hwrite, hmem, hev⟩
      refine ⟨a, v, rest, hev, ?_⟩
      rcases busWrite_cases hwrite with ⟨hw, -, rfl⟩ | ⟨hw, -, rfl⟩ <;> rw [absorb_cfg] at hw <;> simp [hmem, hw]

/-! ### The CBS's progress and ClockState -/

theorem seqCode_le_seqNext (c : Config) (v : Bool) (q : SeqState) : seqCode q ≤ seqCode (seqNext c v q) := by
  cases q
  case record => simp only [seqNext]; split <;> decide
  all_goals cases v <;> simp [seqNext, seqCode]

theorem enter_seqState (q : SeqState) (s : State) : (enter q s).seqState = seqCode q := by
  rw [enter_frame]

/-- A CBS step stays in its state or enters a later one (R141). -/
theorem SeqOutcome.seqState_le {s t : State} {q : SeqState} (hq : s.seqState = seqCode q) (h : SeqOutcome s q t) :
    s.seqState ≤ t.seqState := by
  cases h with
  | rests | issues | disagrees | unmapped | ticks => exact BitVec.le_refl _
  | consumes | settles | records | writes =>
    rw [enter_seqState, hq]
    exact seqCode_le_seqNext ..

theorem AcceptOutcome.seqState_cases {s t : State} (h : AcceptOutcome s t) :
    t.seqState = s.seqState ∨ seqPhase s = .preInit := by
  cases h with
  | starts hs => exact .inr hs
  | _ => exact .inl rfl

theorem seqState_of_preInit {s : State} (h : seqPhase s = .preInit) : s.seqState = 0x00#6 := by
  unfold seqPhase at h
  grind

/-- Settles O42: only a CBS step and the acceptance of `INITCLK` in PRE-INIT write `seq_state`. -/
theorem sequencerNeverGoesBack : Obligations.SequencerNeverGoesBack := by
  intro s t hr h
  change (absorb s).seqState ≤ t.seqState ∧ ((absorb s).seqState = 0x20#6 → t.seqState = 0x20#6)
  have same : t.seqState = (absorb s).seqState →
      (absorb s).seqState ≤ t.seqState ∧ ((absorb s).seqState = 0x20#6 → t.seqState = 0x20#6) :=
    fun e => ⟨e ▸ BitVec.le_refl _, fun hs => e.trans hs⟩
  cases step_outcome hr h with
  | disagrees | refuses | waits => exact same rfl
  | engine _ _ ht => exact same (by rw [ht, engineStep_frame])
  | seq _ _ hrun hq _ h =>
    refine ⟨h.seqState_le hq, fun hs => ?_⟩
    exact absurd hrun (by simp only [seqPhase, hs]; decide)
  | accepts _ _ _ _ _ h =>
    rcases h.seqState_cases with he | hs
    · exact same he
    · have h0 := seqState_of_preInit hs
      change (absorb s).seqState = 0x00#6 at h0
      rw [h0]
      exact ⟨BitVec.le_def.2 (Nat.zero_le _), fun e => absurd e (by decide)⟩

theorem eq_record_of_seqAction {c : Config} {q : SeqState} (h : seqAction c q = .record) : q = .record := by
  cases q
  case record => rfl
  all_goals cases h

/-- Settles O43: of all outcomes only the record writes ClockState. -/
theorem clockStateIsWrittenByRecordOnly : Obligations.ClockStateIsWrittenByRecordOnly := by
  intro s t hr h
  cases step_outcome hr h with
  | disagrees | refuses | waits => exact .inl rfl
  | engine _ _ ht => exact .inl (by rw [ht, engineStep_frame]; rfl)
  | seq _ _ _ hq _ h =>
    cases h with
    | rests | issues | disagrees | unmapped | ticks => exact .inl rfl
    | consumes | settles => exact .inl (by rw [enter_frame]; rfl)
    | writes _ _ hwrite => exact .inl (by rw [enter_frame, busWrite_frame hwrite]; rfl)
    | records ha =>
      obtain rfl := eq_record_of_seqAction ha
      exact .inr ⟨hq, by rw [enter_frame]; rfl⟩
  | accepts _ _ _ _ _ h => cases h <;> exact .inl rfl

/-! ### Holding a request -/

/-- While something is in flight no request is ready (R103). -/
theorem reqReady_of_busy {s : State} (h : s.clientBusy = true ∨ s.engPhase ≠ .idle ∨ s.engDone = true) :
    reqReady s = false := by
  rcases h with h | h | h <;> simp [reqReady, h]

/-- A step of THE BLOCK with something in flight leaves the port, the refusal mark and `client_op` (R103). -/
theorem BlockOutcome.holds {s t : State} (hbusy : s.clientBusy = true ∨ s.engPhase ≠ .idle ∨ s.engDone = true)
    (h : BlockOutcome s t) : t.reqs = s.reqs ∧ t.refused = s.refused ∧ t.clientOp = s.clientOp := by
  have hready := reqReady_of_busy hbusy
  cases h with
  | disagrees | waits => exact ⟨rfl, rfl, rfl⟩
  | engine _ _ ht => rw [ht, engineStep_frame]; exact ⟨rfl, rfl, rfl⟩
  | seq _ _ _ _ ht => rw [ht, seqStep_frame]; exact ⟨rfl, rfl, rfl⟩
  | refuses _ h => rw [hready] at h; cases h
  | accepts _ _ _ _ h => rw [hready] at h; cases h

/-- Registers at rest in PRE-INIT or STABLE agree (R40). -/
theorem blockConsistent_of_rest {s : State} (ha : AtRest s) (hs : s.seqState = 0x00#6 ∨ s.seqState = 0x20#6) :
    blockConsistent s = true := by
  obtain ⟨hp, hi, hd, hb⟩ := ha
  rcases hs with hs | hs <;> simp [blockConsistent, seqOfCode, hs, hi, hd, hb, hp]

theorem seqPhase_of_rest {s : State} (hs : s.seqState = 0x00#6 ∨ s.seqState = 0x20#6) : seqPhase s ≠ .running := by
  rcases hs with hs | hs <;> simp [seqPhase, hs]

/-- Settles O12: nothing in flight lets a request be accepted, and at rest with none presented the step waits. -/
theorem presentedRequestHoldsWhileBusy : Obligations.PresentedRequestHoldsWhileBusy := by
  intro s hr
  refine ⟨fun t hbusy h => ?_, fun hc hm ha hs hreqs => ?_⟩
  · obtain ⟨hreqs, href, hop⟩ := (step_outcome hr h).holds (s := absorb s) hbusy
    obtain ⟨-, ⟨hreset, -⟩ | ⟨-, hblock⟩⟩ := step_cases h
    · rw [hr] at hreset; cases hreset
    · exact ⟨hreqs, href.trans (unmarked_of_blockStep_next hblock).1, hop⟩
  · rw [step_eq_blockStep hc hr, blockStep_of_client (u := absorb s) hm.1 hm.2
      (blockConsistent_of_rest (s := absorb s) ha hs) ha.1
      (seqPhase_of_rest (s := absorb s) hs), clientStep, hreqs]

end Sys2Proof.Machine
end

section
/-! PROOF. The step on which a request is accepted or refused, and the accepting step of each operation
(`40_bit_access.md` R103 to R105, `41_clock_sequencer.md` R143, R144, `30_encoding.md` R86, R87); the steps no run takes and
the reset step (`60_exceptions.md` R206, `70_reset_and_hazards.md` R230). -/

namespace Sys2Proof.Machine

/-! ### The step that takes the word off the port -/

/-- With the CBS not running and a request ready, the step takes the word on the port (R103). -/
theorem step_eq_accept {s : State} {w : ReqWord} {rest : List ReqWord} (hc : configWf s.cfg = true)
    (hr : resetRaised s = false) (hm : Unmarked s) (hcon : blockConsistent (absorb s) = true)
    (hrun : seqPhase s ≠ .running) (hready : reqReady (absorb s) = true) (hreqs : (absorb s).reqs = w :: rest) :
    step s = accept w (absorb s) := by
  have hidle : (absorb s).engPhase = .idle := by simp_all [reqReady]
  rw [step_eq_blockStep hc hr, blockStep_of_client (u := absorb s) hm.1 hm.2 hcon hidle hrun]
  simp only [clientStep, hreqs, hready, if_true]

/-- Settles O6: the accepted word decodes, and its operation runs with the word gone from the port. -/
theorem stepRunsTheDecodedOperation : Obligations.StepRunsTheDecodedOperation := by
  intro s w rest i hc hr hm hcon hrun hready hreqs hdec _
  rw [step_eq_accept hc hr hm hcon hrun hready hreqs]
  simp only [accept, hdec, hreqs, List.tail_cons]

/-- At rest in a quiet environment, the step takes the word on the port (R103). -/
theorem step_takes_word {s : State} {w : ReqWord} {rest : List ReqWord} (h : Undisturbed s) (ha : AtRest s)
    (hs : s.seqState = 0x00#6 ∨ s.seqState = 0x20#6) (hreqs : s.reqs = w :: rest) :
    step s = accept w { s with rsp := none } := by
  obtain ⟨hc, hm, hq⟩ := h
  have hcon : blockConsistent (absorb s) = true := blockConsistent_of_rest (s := absorb s) ha hs
  have habs : (absorb s).reqs = w :: rest := by rw [absorb_of_quiet hq]; exact hreqs
  have hready : reqReady (absorb s) = true := by
    obtain ⟨hp, -, hd, hb⟩ := ha
    simp [reqReady, reqValid, marked, hreqs, hp, hd, hb, hm.1, hm.2]
  rw [step_eq_accept hc (resetRaised_of_quiet hq) hm hcon (seqPhase_of_rest hs) hready habs, absorb_of_quiet hq]

/-- Settles O7: the decoder rejects the word (O3), and the step sets the mark. -/
theorem reservedBitsAreRefused : Obligations.ReservedBitsAreRefused := by
  intro s w rest hs hreqs h6 h7 hbits
  have hdec : decode w = .error .reservedBits := (decoderRejectsExactlyReservedBits w).2 ⟨⟨h6, h7⟩, hbits⟩
  have hstep : step s = accept w { s with rsp := none } := by
    rcases hs with ⟨hu, ha, hs⟩ | ⟨hu, ha, hs⟩
    · exact step_takes_word hu ha (.inl hs) hreqs
    · exact step_takes_word hu ha (.inr hs) hreqs
  rw [hstep]
  simp only [accept, hdec, hreqs, List.tail_cons]
  rfl

/-! ### The steps no run takes, and the reset step -/

/-- Settles O8: the marks are looked at first. -/
theorem markedBlockTakesNoStep : Obligations.MarkedBlockTakesNoStep := by
  intro s hc hr
  rw [step_eq_blockStep hc hr]
  refine ⟨fun r h => ?_, fun f hn h => ?_⟩
  · simp only [blockStep, absorb_refused, h]
  · simp only [blockStep, absorb_refused, absorb_fault, hn, h]

/-- Settles O10: the configuration's check comes before all else. -/
theorem illformedConfigurationHasNoRun : Obligations.IllformedConfigurationHasNoRun := by
  intro s h
  exact if_pos h

theorem step_of_reset {s : State} (hc : configWf s.cfg = true) (hr : resetRaised s = true) :
    step s = .next (blockReset (absorb s)) := by
  simp only [step, machineStep, hc, hr, Bool.true_eq_false, if_false, if_true]

/-- Settles O53: the fields of the reset step's state, and of memory what the environment leaves. -/
theorem resetStepDiscardsTheOperation : Obligations.ResetStepDiscardsTheOperation := by
  intro s hc hr
  exact ⟨_, step_of_reset hc hr, rfl, rfl, rfl, rfl, rfl, rfl, rfl, rfl, rfl, rfl, rfl, rfl,
    fun x hx => memByte_absorb_other hx, rfl, rfl⟩

/-- Settles O52: by evaluation of the machine after reset. -/
theorem resetLeavesTheStatedValues : Obligations.ResetLeavesTheStatedValues := by
  unfold Obligations.ResetLeavesTheStatedValues
  decide

/-! ### The accepting step of the bit operations -/

theorem inWindow_iff (c : Config) (a : Word) : inWindow c a = true ↔ c.bbLo ≤ a ∧ a ≤ c.bbHi := by
  simp [inWindow]

/-- The issue of an operation, its path chosen by the bounds of the window (R100, R105). -/
theorem issue_eq (o : Owner) (op : EngOp) (a : Word) (b : BitIndex) (v : Bool) (s : State) :
    issue o op a b v s = { s with
      engOwner := o, engOp := op, engAddr := a, engBit := b, engVal := v
      engAlias := if s.cfg.bbLo ≤ a ∧ a ≤ s.cfg.bbHi then aliasAddr s.cfg a b else s.engAlias
      engWdata := if (s.cfg.bbLo ≤ a ∧ a ≤ s.cfg.bbHi) ∧ op ≠ .rd then issueWdata op v else s.engWdata
      engPhase := issuePhase s.cfg op a } := by
  simp only [issue, ← inWindow_iff, Bool.and_eq_true, bne_iff_ne]

/-- The phase in which an operation outside the window starts (R105). -/
def directPhase : EngOp → EngPhase
  | .rd => .dRead
  | .set => .dSetR
  | .clr => .dClrR
  | .wr => .dClrR

theorem issuePhase_eq (c : Config) (op : EngOp) (a : Word) :
    issuePhase c op a =
      if c.bbLo ≤ a ∧ a ≤ c.bbHi then (if op = .rd then .aRead else .aWrite) else directPhase op := by
  cases op <;> simp only [issuePhase, ← inWindow_iff, directPhase]

/-- Settles O16. -/
theorem rdbitIsIssued : Obligations.RdbitIsIssued := by
  intro s a b hs ho
  simp only [exec, execRdbit, acceptBitOp_stable hs ho, issue_eq, issuePhase_eq, directPhase, aliasAddr]
  simp

/-- Settles O17. -/
theorem setbitIsIssued : Obligations.SetbitIsIssued := by
  intro s a b hs ho
  simp only [exec, execSetbit, acceptBitOp_stable hs ho, issue_eq, issuePhase_eq, directPhase, aliasAddr, issueWdata]
  simp

/-- Settles O18. -/
theorem clrbitIsIssued : Obligations.ClrbitIsIssued := by
  intro s a b hs ho
  simp only [exec, execClrbit, acceptBitOp_stable hs ho, issue_eq, issuePhase_eq, directPhase, aliasAddr, issueWdata]
  simp

/-- Settles O19. -/
theorem wrbitIsIssued : Obligations.WrbitIsIssued := by
  intro s a b v hs ho
  simp only [exec, execWrbit, acceptBitOp_stable hs ho, issue_eq, issuePhase_eq, directPhase, aliasAddr, issueWdata, bitWord]
  simp

/-! ### The accepting step of the clock operations and of the reserved rows -/

/-- Settles O20. -/
theorem initclkStartsTheBringup : Obligations.InitclkStartsTheBringup := by
  intro s hs
  simp only [exec, execInitclk, seqPhase, hs, if_true]
  rfl

/-- Settles O21. -/
theorem getfreqRespondsClockState : Obligations.GetfreqRespondsClockState := by
  intro s f hs hf
  have hphase : seqPhase s = .stable := by simp [seqPhase, hs]
  have hexec : exec .getfreq s = .next (respond f s) := by simp only [exec, execGetfreq, hphase, hf]
  exact hexec

/-- Settles O22: a reserved row's word decodes to that row (O1), whose meaning is the refusal. -/
theorem reservedOpsAreRefused : Obligations.ReservedOpsAreRefused := by
  intro w s
  exact ⟨fun h => ⟨decodeOfEncodeIsTheOperation (.reservedOp110 w) ((wf_reservedOp110 w).2 h), rfl⟩,
    fun h => ⟨decodeOfEncodeIsTheOperation (.reservedOp111 w) ((wf_reservedOp111 w).2 h), rfl⟩⟩

/-! ### Refusals of the accepting step -/

/-- A bit operation in PRE-INIT is refused before its operands are looked at (R103). -/
theorem acceptBitOp_preInit {cop : ClientOp} {op : EngOp} {a : Word} {b : BitIndex} {v : Bool} {s : State}
    (hs : s.seqState = 0x00#6) : acceptBitOp cop op a b v s = { s with refused := some .notInitialised } := by
  have hphase : seqPhase s = .preInit := by simp [seqPhase, hs]
  simp only [acceptBitOp, hphase]
  rfl

/-- A bit operation in STABLE whose operands fail is refused with the first failed check's reason (R104). -/
theorem acceptBitOp_refused {cop : ClientOp} {op : EngOp} {a : Word} {b : BitIndex} {v : Bool} {s : State}
    {r : RefuseReason} (hs : s.seqState = 0x20#6) (hchk : operandCheck s.cfg a b = some r) :
    acceptBitOp cop op a b v s = { s with refused := some r } := by
  have hphase : seqPhase s = .stable := by simp [seqPhase, hs]
  simp only [acceptBitOp, hphase, hchk]
  rfl

/-- Settles O23. -/
theorem requestsOutOfPhaseAreRefused : Obligations.RequestsOutOfPhaseAreRefused := by
  intro s a b v
  refine ⟨fun hs => ?_, fun hs => ?_⟩
  · have hphase : seqPhase s = .preInit := by simp [seqPhase, hs]
    have hop : ∀ cop op v, acceptBitOp cop op a b v s = { s with refused := some .notInitialised } :=
      fun _ _ _ => acceptBitOp_preInit hs
    refine ⟨congrArg _ (hop ..), congrArg _ (hop ..), congrArg _ (hop ..), congrArg _ (hop ..), ?_⟩
    simp only [exec, execGetfreq, hphase]
    rfl
  · have hphase : seqPhase s = .stable := by simp [seqPhase, hs]
    simp only [exec, execInitclk, hphase]
    rfl

/-- Settles O24: the two failures of the operand check, which all four operations make. -/
theorem operandChecksInOrder : Obligations.OperandChecksInOrder := by
  intro s a b v hs i hi
  have refuses : ∀ r, operandCheck s.cfg a b = some r → exec i s = .next { s with refused := some r } := by
    intro r hchk
    simp only [List.mem_cons, List.not_mem_nil, or_false] at hi
    rcases hi with rfl | rfl | rfl | rfl <;>
      simp only [exec, execRdbit, execSetbit, execClrbit, execWrbit, acceptBitOp_refused hs hchk]
  refine ⟨fun h => refuses _ ?_, fun h hw => refuses _ ?_⟩
  · simp [operandCheck, wordAligned, h]
  · simp [operandCheck, wordAligned, h, hw]

end Sys2Proof.Machine
end

section
/-! PROOF. The closed check of WF2 and the arithmetic of alias addresses (`00_scope.md` R9, `40_bit_access.md` R100 to R102,
`20_memory.md` R54, R55). -/

namespace Sys2Proof.Machine

/-! ### The bits that vary within the window -/

/-- `y` has bit `i` exactly when `x` has one of the `k` bits from `i` up. -/
def Smeared (x y : Word) (k : Nat) : Prop := ∀ i, y.getLsbD i = true ↔ ∃ j < k, x.getLsbD (i + j) = true

theorem smeared_one (x : Word) : Smeared x x 1 := by
  intro i
  exact ⟨fun h => ⟨0, by decide, h⟩, fun ⟨j, hj, h⟩ => by simpa [Nat.lt_one_iff.1 hj] using h⟩

/-- One doubling of the smear. -/
theorem Smeared.double {x y : Word} {k : Nat} (h : Smeared x y k) : Smeared x (y ||| (y >>> k)) (k + k) := by
  intro i
  simp only [BitVec.getLsbD_or, BitVec.getLsbD_ushiftRight, Bool.or_eq_true, h i, h (k + i)]
  constructor
  · rintro (⟨j, hj, hx⟩ | ⟨j, hj, hx⟩)
    · exact ⟨j, by omega, hx⟩
    · exact ⟨k + j, by omega, by rwa [show i + (k + j) = k + i + j by omega]⟩
  · rintro ⟨j, hj, hx⟩
    by_cases hjk : j < k
    · exact .inl ⟨j, hjk, hx⟩
    · exact .inr ⟨j - k, by omega, by rwa [show k + i + (j - k) = i + j by omega]⟩

/-- The smear has every bit at or below a set bit. -/
theorem smear_getLsbD (x : Word) (i : Nat) : (smear x).getLsbD i = true ↔ ∃ j, x.getLsbD (i + j) = true := by
  have h : Smeared x (smear x) 32 := (smeared_one x).double.double.double.double.double
  rw [h i]
  refine ⟨fun ⟨j, _, hx⟩ => ⟨j, hx⟩, fun ⟨j, hx⟩ => ⟨j, ?_, hx⟩⟩
  have := BitVec.lt_of_getLsbD hx
  omega

/-- Two words differ at or above bit `i` exactly when they differ shifted down by `i`. -/
theorem exists_xor_bit_iff (x y : Word) (i : Nat) :
    (∃ j, (x ^^^ y).getLsbD (i + j) = true) ↔ x >>> i ≠ y >>> i := by
  have heq : x >>> i = y >>> i ↔ ∀ j, (x ^^^ y).getLsbD (i + j) = false := by
    constructor
    · intro h j
      have e := congrArg (BitVec.getLsbD · j) h
      simp only [BitVec.getLsbD_ushiftRight] at e
      simp [e]
    · intro h
      apply BitVec.eq_of_getLsbD_eq
      intro j _
      simpa [BitVec.getLsbD_ushiftRight] using h j
  rw [Ne, heq]
  simp

theorem not_three_getLsbD (i : Nat) : (~~~3#32).getLsbD i = decide (2 ≤ i ∧ i < 32) := by
  by_cases h : i < 32
  · revert i
    decide
  · rw [BitVec.getLsbD_of_ge _ _ (by omega)]
    simp [h]

/-- A bit varies within the window exactly when the bounds differ at or above it; bits 1:0 do not vary. -/
theorem windowVaries_getLsbD (c : Config) (i : Nat) :
    (windowVaries c).getLsbD i = true ↔ (2 ≤ i ∧ i < 32) ∧ c.bbLo >>> i ≠ c.bbHi >>> i := by
  simp only [windowVaries, BitVec.getLsbD_and, Bool.and_eq_true, smear_getLsbD, not_three_getLsbD, decide_eq_true_eq]
  rw [and_comm, ← exists_xor_bit_iff]
  refine and_congr_right fun hi => ⟨fun ⟨j, hx, _⟩ => ⟨j, hx⟩, fun ⟨j, hx⟩ => ⟨j, hx, ?_⟩⟩
  have := BitVec.lt_of_getLsbD hx
  omega

/-! ### WF2, bit by bit -/

theorem and_eq_zero_iff (x y : Word) : x &&& y = 0#32 ↔ ∀ i, x.getLsbD i = true → y.getLsbD i = false := by
  constructor
  · intro h i hx
    have e := congrArg (BitVec.getLsbD · i) h
    simpa [hx] using e
  · intro h
    apply BitVec.eq_of_getLsbD_eq
    intro i _
    cases hx : x.getLsbD i
    · simp [hx]
    · simp [hx, h i hx]

theorem and_not_eq_zero_iff (x y : Word) : x &&& ~~~y = 0#32 ↔ ∀ i, x.getLsbD i = true → y.getLsbD i = true := by
  rw [and_eq_zero_iff]
  refine forall_congr' fun i => imp_congr_right fun hx => ?_
  simp [BitVec.lt_of_getLsbD hx]

theorem and_eq_and_iff (x y m : Word) : x &&& m = y &&& m ↔ ∀ i, m.getLsbD i = true → x.getLsbD i = y.getLsbD i := by
  constructor
  · intro h i hm
    have e := congrArg (BitVec.getLsbD · i) h
    simpa [hm] using e
  · intro h
    apply BitVec.eq_of_getLsbD_eq
    intro i _
    cases hm : m.getLsbD i
    · simp [hm]
    · simp [hm, h i hm]

theorem wf2_iff (c : Config) :
    wf2 c = true ↔
      (∀ i, (windowVaries c).getLsbD i = true → c.highMask.getLsbD i = false ∧ c.lowMask.getLsbD i = true)
      ∧ ∀ i, c.bbLo.getLsbD i = true → c.highMask.getLsbD i = true ∨ c.lowMask.getLsbD i = true := by
  simp only [wf2, Bool.and_eq_true, beq_iff_eq, BitVec.and_comm c.highMask, and_not_eq_zero_iff, BitVec.getLsbD_or,
    Bool.or_eq_true, and_eq_zero_iff (windowVaries c) c.highMask]
  exact and_congr_left fun _ => ⟨fun ⟨hhigh, hlow⟩ i hi => ⟨hhigh i hi, hlow i hi⟩,
    fun h => ⟨fun i hi => (h i hi).1, fun i hi => (h i hi).2⟩⟩

theorem windowAgrees_iff (c : Config) :
    windowAgrees c ↔ ∀ a : Word, c.bbLo ≤ a → a ≤ c.bbHi → wordAligned a = true →
      ∀ i, (a.getLsbD i = true → c.highMask.getLsbD i = true ∨ c.lowMask.getLsbD i = true)
        ∧ (c.highMask.getLsbD i = true → a.getLsbD i = c.bbLo.getLsbD i) := by
  simp only [windowAgrees, and_not_eq_zero_iff, and_eq_and_iff, BitVec.getLsbD_or, Bool.or_eq_true, forall_and]

theorem wordAligned_iff_toNat (a : Word) : wordAligned a = true ↔ a.toNat % 4 = 0 := by
  rw [wordAligned, beq_iff_eq, ← BitVec.toNat_inj]
  simp

theorem aligned_low_bit {a : Word} (h : wordAligned a = true) {i : Nat} (hi : i < 2) : a.getLsbD i = false := by
  have e := congrArg (BitVec.getLsbD · i) (eq_of_beq h)
  simpa [BitVec.getLsbD_extractLsb', hi] using e

theorem bbLo_le_bbHi {c : Config} (h : wf1 c = true) : c.bbLo ≤ c.bbHi := by
  simp only [wf1, Bool.and_eq_true, decide_eq_true_eq] at h
  exact h.2

theorem bbLo_aligned {c : Config} (h : wf1 c = true) : wordAligned c.bbLo = true := by
  simp only [wf1, Bool.and_eq_true] at h
  exact h.1.1

/-- A bit that does not vary is `BB_LO`'s in every word of the window. -/
theorem bit_of_not_varies {c : Config} {a : Word} {i : Nat} (h1 : wf1 c = true) (hla : c.bbLo ≤ a) (hah : a ≤ c.bbHi)
    (haligned : wordAligned a = true) (hi : (windowVaries c).getLsbD i = false) :
    a.getLsbD i = c.bbLo.getLsbD i := by
  by_cases h2 : i < 2
  · rw [aligned_low_bit haligned h2, aligned_low_bit (bbLo_aligned h1) h2]
  · by_cases h32 : i < 32
    · have hsame : c.bbLo >>> i = c.bbHi >>> i := by
        have hn := (windowVaries_getLsbD c i).not.1 (by simp [hi])
        exact not_not.1 fun hne => hn ⟨⟨by omega, h32⟩, hne⟩
      have hshift : a >>> i = c.bbLo >>> i := by
        apply BitVec.eq_of_toNat_eq
        have hsame' := congrArg BitVec.toNat hsame
        simp only [BitVec.toNat_ushiftRight, Nat.shiftRight_eq_div_pow] at hsame' ⊢
        have hlo : c.bbLo.toNat / 2 ^ i ≤ a.toNat / 2 ^ i := Nat.div_le_div_right hla
        have hhi : a.toNat / 2 ^ i ≤ c.bbHi.toNat / 2 ^ i := Nat.div_le_div_right hah
        omega
      simpa using congrArg (BitVec.getLsbD · 0) hshift
    · rw [BitVec.getLsbD_of_ge _ _ (by omega), BitVec.getLsbD_of_ge _ _ (by omega)]

/-- A bit that varies differs from `BB_LO`'s in some word of the window: the next multiple of its weight. -/
theorem exists_bit_ne_of_varies {c : Config} {i : Nat} (h1 : wf1 c = true) (hi : (windowVaries c).getLsbD i = true) :
    ∃ a, c.bbLo ≤ a ∧ a ≤ c.bbHi ∧ wordAligned a = true ∧ a.getLsbD i ≠ c.bbLo.getLsbD i := by
  obtain ⟨⟨h2, h32⟩, hne⟩ := (windowVaries_getLsbD c i).1 hi
  have hle : c.bbLo.toNat ≤ c.bbHi.toNat := bbLo_le_bbHi h1
  have hlt : c.bbLo.toNat / 2 ^ i < c.bbHi.toNat / 2 ^ i := by
    refine lt_of_le_of_ne (Nat.div_le_div_right hle) fun e => hne (BitVec.eq_of_toNat_eq ?_)
    simpa only [BitVec.toNat_ushiftRight, Nat.shiftRight_eq_div_pow] using e
  have hpos : 0 < 2 ^ i := Nat.two_pow_pos i
  have hhi : (c.bbLo.toNat / 2 ^ i + 1) * 2 ^ i ≤ c.bbHi.toNat :=
    (Nat.mul_le_mul_right _ hlt).trans (Nat.div_mul_le_self _ _)
  have hlo : c.bbLo.toNat < (c.bbLo.toNat / 2 ^ i + 1) * 2 ^ i := Nat.lt_mul_of_div_lt (Nat.lt_succ_self _) hpos
  have ha : (BitVec.ofNat 32 ((c.bbLo.toNat / 2 ^ i + 1) * 2 ^ i)).toNat = (c.bbLo.toNat / 2 ^ i + 1) * 2 ^ i := by
    rw [BitVec.toNat_ofNat, Nat.mod_eq_of_lt (lt_of_le_of_lt hhi c.bbHi.isLt)]
  refine ⟨BitVec.ofNat 32 ((c.bbLo.toNat / 2 ^ i + 1) * 2 ^ i), ?_, ?_, ?_, ?_⟩
  · rw [BitVec.le_def, ha]; exact hlo.le
  · rw [BitVec.le_def, ha]; exact hhi
  · rw [wordAligned_iff_toNat, ha]
    exact Nat.mod_eq_zero_of_dvd ((pow_dvd_pow 2 h2).mul_left _)
  · rw [← BitVec.testBit_toNat, ← BitVec.testBit_toNat, ha, Nat.testBit_eq_decide_div_mod_eq,
      Nat.testBit_eq_decide_div_mod_eq, Nat.mul_div_cancel _ hpos]
    simp only [ne_eq, decide_eq_decide]
    omega

/-- Settles O11: a bit that varies is 0 in one word address of the window and 1 in another; every other bit is that of
`BB_LO` in all of them. -/
theorem windowCheckDecidesTheRule : Obligations.WindowCheckDecidesTheRule := by
  intro c h1
  rw [wf2_iff, windowAgrees_iff]
  constructor
  · rintro ⟨hvaries, hlo⟩ a hla hah haligned i
    cases hi : (windowVaries c).getLsbD i
    · rw [bit_of_not_varies h1 hla hah haligned hi]
      exact ⟨hlo i, fun _ => rfl⟩
    · obtain ⟨hhigh, hlow⟩ := hvaries i hi
      exact ⟨fun _ => .inr hlow, fun h => by simp [hhigh] at h⟩
  · intro h
    have hbase := h c.bbLo (BitVec.le_refl _) (bbLo_le_bbHi h1) (bbLo_aligned h1)
    refine ⟨fun i hi => ?_, fun i => (hbase i).1⟩
    obtain ⟨a, hla, hah, haligned, hne⟩ := exists_bit_ne_of_varies h1 hi
    obtain ⟨hmade, hagrees⟩ := h a hla hah haligned i
    have hhigh : c.highMask.getLsbD i = false := by
      cases hm : c.highMask.getLsbD i
      · rfl
      · exact absurd (hagrees hm) hne
    refine ⟨hhigh, ?_⟩
    cases ha : a.getLsbD i
    · have hb : c.bbLo.getLsbD i = true := by
        cases hb : c.bbLo.getLsbD i
        · exact absurd (ha.trans hb.symm) hne
        · rfl
      simpa [hhigh] using (hbase i).1 hb
    · simpa [hhigh] using hmade ha

/-! ### The alias address of a word of the window -/

theorem configWf_iff (c : Config) :
    configWf c = true ↔ wf1 c = true ∧ wf2 c = true ∧ wf3 c = true ∧ wf4 c = true ∧ wf5 c = true ∧ wf6 c = true
      ∧ wf7 c = true := by
  simp only [configWf, Bool.and_eq_true, and_assoc]

/-- A word address of the window. -/
abbrev WindowWord (c : Config) (a : Word) : Prop := inWindow c a = true ∧ wordAligned a = true

/-- The last word address of the window. -/
def lastWord (c : Config) : Word := c.bbHi &&& ~~~3#32

/-- The part of an address that its alias shifts. -/
def lowPart (c : Config) (a : Word) : Nat := (a &&& c.lowMask).toNat

/-- The alias of bit 0 of a word whose low part is 0. -/
def aliasBase (c : Config) : Nat := (c.bbLo &&& c.highMask).toNat + c.aliasOffset.toNat

theorem lastWord_toNat (c : Config) : (lastWord c).toNat = c.bbHi.toNat / 4 * 4 := by
  have h : lastWord c = c.bbHi >>> 2 <<< 2 := by rw [BitVec.shiftLeft_ushiftRight]; rfl
  rw [h, BitVec.toNat_shiftLeft, BitVec.toNat_ushiftRight, Nat.shiftLeft_eq, Nat.shiftRight_eq_div_pow]
  have := c.bbHi.isLt
  omega

theorem windowWord_bbLo {c : Config} (hc : configWf c = true) : WindowWord c c.bbLo := by
  obtain ⟨h1, -⟩ := (configWf_iff c).1 hc
  exact ⟨(inWindow_iff _ _).2 ⟨BitVec.le_refl _, bbLo_le_bbHi h1⟩, bbLo_aligned h1⟩

/-- The last word is a word of the window, and no word of it is above. -/
theorem windowWord_lastWord {c : Config} (hc : configWf c = true) : WindowWord c (lastWord c) := by
  obtain ⟨h1, -⟩ := (configWf_iff c).1 hc
  have hle : c.bbLo.toNat ≤ c.bbHi.toNat := bbLo_le_bbHi h1
  have halo := (wordAligned_iff_toNat _).1 (bbLo_aligned h1)
  rw [WindowWord, inWindow_iff, wordAligned_iff_toNat, BitVec.le_def, BitVec.le_def, lastWord_toNat]
  omega

theorem le_lastWord {c : Config} {a : Word} (ha : WindowWord c a) : a.toNat ≤ (lastWord c).toNat := by
  have hle : a.toNat ≤ c.bbHi.toNat := ((inWindow_iff _ _).1 ha.1).2
  have h4 := (wordAligned_iff_toNat _).1 ha.2
  rw [lastWord_toNat]
  omega

/-- WF2 of a word of the window: it is made of the masks' bits and agrees with `BB_LO` in those of `HIGH_MASK`. -/
theorem windowWord_masks {c : Config} {a : Word} (hc : configWf c = true) (ha : WindowWord c a) :
    a &&& ~~~(c.highMask ||| c.lowMask) = 0#32 ∧ a &&& c.highMask = c.bbLo &&& c.highMask := by
  obtain ⟨h1, h2, -⟩ := (configWf_iff c).1 hc
  obtain ⟨hlo, hhi⟩ := (inWindow_iff _ _).1 ha.1
  exact (windowCheckDecidesTheRule c h1).1 h2 a hlo hhi ha.2

/-- A word of the window is its low part above the bits all words of the window share. -/
theorem toNat_eq_lowPart_add {c : Config} {a : Word} (hc : configWf c = true) (ha : WindowWord c a) :
    a.toNat = lowPart c a + ((c.bbLo &&& c.highMask) &&& ~~~c.lowMask).toNat := by
  obtain ⟨hmade, hhigh⟩ := windowWord_masks hc ha
  have hrest : (c.bbLo &&& c.highMask) &&& ~~~c.lowMask = a &&& ~~~c.lowMask := by
    rw [← hhigh]
    rw [and_not_eq_zero_iff] at hmade
    apply BitVec.eq_of_getLsbD_eq
    intro i hi
    have := hmade i
    simp only [BitVec.getLsbD_or, BitVec.getLsbD_and, BitVec.getLsbD_not] at this ⊢
    grind
  have hdisjoint : (a &&& c.lowMask) &&& (a &&& ~~~c.lowMask) = 0#32 := by
    apply BitVec.eq_of_getLsbD_eq
    intro i hi
    simp only [BitVec.getLsbD_and, BitVec.getLsbD_not, BitVec.getLsbD_zero]
    grind
  have hsum : (a &&& c.lowMask) + (a &&& ~~~c.lowMask) = a := by
    rw [BitVec.add_eq_or_of_and_eq_zero _ _ hdisjoint]
    apply BitVec.eq_of_getLsbD_eq
    intro i hi
    simp only [BitVec.getLsbD_or, BitVec.getLsbD_and, BitVec.getLsbD_not]
    grind
  rw [hrest, lowPart, ← BitVec.toNat_add_of_and_eq_zero hdisjoint, hsum]

theorem lowPart_le {c : Config} {a a' : Word} (hc : configWf c = true) (ha : WindowWord c a) (ha' : WindowWord c a')
    (h : a.toNat ≤ a'.toNat) : lowPart c a ≤ lowPart c a' := by
  rw [toNat_eq_lowPart_add hc ha, toNat_eq_lowPart_add hc ha'] at h
  omega

theorem lowPart_mod_four {c : Config} {a : Word} (ha : wordAligned a = true) : lowPart c a % 4 = 0 := by
  rw [lowPart, ← wordAligned_iff_toNat, wordAligned, beq_iff_eq]
  apply BitVec.eq_of_getLsbD_eq
  intro i hi
  simp [BitVec.getLsbD_extractLsb', aligned_low_bit ha hi]

/-- WF3: no alias of a word of the window wraps. -/
theorem alias_fits {c : Config} {a : Word} (hc : configWf c = true) (ha : WindowWord c a) :
    aliasBase c + lowPart c a * 32 + 127 < 2 ^ 32 := by
  obtain ⟨-, -, h3, -⟩ := (configWf_iff c).1 hc
  simp only [wf3, Bool.and_eq_true, decide_eq_true_eq] at h3
  have hlast : aliasBase c + lowPart c (lastWord c) * 32 + 127 < 2 ^ 32 := h3.1
  have := lowPart_le hc ha (windowWord_lastWord hc) (le_lastWord ha)
  omega

/-- The alias of a bit of the window, computed without wrapping (R101). -/
theorem aliasAddr_toNat {c : Config} {a : Word} (b : BitIndex) (hc : configWf c = true) (ha : WindowWord c a) :
    (aliasAddr c a b).toNat = aliasBase c + lowPart c a * 32 + b.toNat * 4 := by
  have hfits := alias_fits hc ha
  have hb := b.isLt
  rw [aliasAddr, (windowWord_masks hc ha).2]
  simp only [BitVec.toNat_add, BitVec.toNat_shiftLeft, BitVec.toNat_setWidth, Nat.shiftLeft_eq]
  simp only [aliasBase, lowPart] at hfits ⊢
  omega

/-- Settles O37: the alias's multiple of 128 is the word's low part, and the rest the bit. -/
theorem aliasIsInjectiveOnTheWindow : Obligations.AliasIsInjectiveOnTheWindow := by
  intro c a a' b b' hc hw hw' ha ha' h
  have haw : WindowWord c a := ⟨hw, beq_iff_eq.2 ha⟩
  have haw' : WindowWord c a' := ⟨hw', beq_iff_eq.2 ha'⟩
  have heq := congrArg BitVec.toNat h
  rw [aliasAddr_toNat b hc haw, aliasAddr_toNat b' hc haw'] at heq
  have h4 := lowPart_mod_four (c := c) haw.2
  have h4' := lowPart_mod_four (c := c) haw'.2
  have hb := b.isLt
  have hb' := b'.isLt
  refine ⟨BitVec.eq_of_toNat_eq ?_, BitVec.eq_of_toNat_eq ?_⟩
  · rw [toNat_eq_lowPart_add hc haw, toNat_eq_lowPart_add hc haw']
    omega
  · omega

/-- The alias of a bit of the window lies in the alias window (R8). -/
theorem inAliasWindow_aliasAddr {c : Config} {a : Word} (b : BitIndex) (hc : configWf c = true) (ha : WindowWord c a) :
    inAliasWindow c (aliasAddr c a b) = true := by
  have hlo : (aliasLo c).toNat = _ := aliasAddr_toNat 0 hc (windowWord_bbLo hc)
  have hlast : (aliasAddr c (lastWord c) 31).toNat = _ := aliasAddr_toNat 31 hc (windowWord_lastWord hc)
  have hfits := alias_fits hc (windowWord_lastWord hc)
  have hhi : (aliasHi c).toNat = aliasBase c + lowPart c (lastWord c) * 32 + 31 * 4 + 3 := by
    rw [aliasHi, BitVec.toNat_add]
    change ((aliasAddr c (lastWord c) 31).toNat + 3) % 2 ^ 32 = _
    rw [hlast]
    change (_ + 31 * 4 + 3) % _ = _
    omega
  have hfirst := lowPart_le hc (windowWord_bbLo hc) ha ((inWindow_iff _ _).1 ha.1).1
  have hbelow := lowPart_le hc ha (windowWord_lastWord hc) (le_lastWord ha)
  have hb := b.isLt
  simp only [inAliasWindow, Bool.and_eq_true, decide_eq_true_eq, BitVec.le_def, aliasAddr_toNat b hc ha, hlo, hhi]
  change _ + 0 * 4 ≤ _ ∧ _
  omega

/-- Decoding the alias of a bit of the window gives it back, under masks that share no bit (R102). -/
theorem aliasDecode_aliasAddr {c : Config} {a : Word} (b : BitIndex) (hc : configWf c = true) (hm : MasksDisjoint c)
    (ha : WindowWord c a) : aliasDecode c (aliasAddr c a b) = (a, b) := by
  have hfits := alias_fits hc ha
  have hb := b.isLt
  have h4 := lowPart_mod_four (c := c) ha.2
  have hoff : (aliasAddr c a b - ((c.bbLo &&& c.highMask) + c.aliasOffset)).toNat = lowPart c a * 32 + b.toNat * 4 := by
    rw [BitVec.toNat_sub, aliasAddr_toNat b hc ha, BitVec.toNat_add]
    simp only [aliasBase] at hfits ⊢
    omega
  have hshare : (c.bbLo &&& c.highMask) &&& ~~~c.lowMask = c.bbLo &&& c.highMask := by
    apply BitVec.eq_of_getLsbD_eq
    intro i hi
    have := congrArg (BitVec.getLsbD · i) hm
    simp only [BitVec.getLsbD_and, BitVec.getLsbD_not, BitVec.getLsbD_zero] at this ⊢
    grind
  have hword := toNat_eq_lowPart_add hc ha
  rw [hshare] at hword
  refine Prod.ext (BitVec.eq_of_toNat_eq ?_) (BitVec.eq_of_toNat_eq ?_)
  · simp only [aliasDecode, BitVec.toNat_add, BitVec.toNat_shiftLeft, BitVec.toNat_ushiftRight, hoff, Nat.shiftLeft_eq,
      Nat.shiftRight_eq_div_pow]
    have := a.isLt
    omega
  · simp only [aliasDecode, BitVec.toNat_setWidth, BitVec.toNat_ushiftRight, hoff, Nat.shiftRight_eq_div_pow]
    omega

/-- Settles O36. -/
theorem aliasDecodeInvertsAlias : Obligations.AliasDecodeInvertsAlias := by
  intro c a b hc hm hw ha
  have haw : WindowWord c a := ⟨hw, beq_iff_eq.2 ha⟩
  exact ⟨aliasDecode_aliasAddr b hc hm haw, inAliasWindow_aliasAddr b hc haw⟩

/-- Settles O38: by evaluation on the configuration of log 18. -/
theorem aliasDecodeNeedsDisjointMasks : Obligations.AliasDecodeNeedsDisjointMasks := by
  unfold Obligations.AliasDecodeNeedsDisjointMasks
  decide +kernel

/-! ### Bytes, the direct path of an alias word, and its write -/

theorem three_getLsbD {i : Nat} (h : i < 2) : (3#32).getLsbD i = true := by
  revert i
  decide

/-- A number below 4 has no bit from 2 up. -/
theorem getLsbD_ofNat_small {k i : Nat} (hk : k < 4) (hi : 2 ≤ i) : (BitVec.ofNat 32 k).getLsbD i = false := by
  have h : k < 2 ^ i := lt_of_lt_of_le hk (Nat.pow_le_pow_right (n := 2) (by decide) hi)
  rw [BitVec.getLsbD_ofNat, Nat.testBit_lt_two_pow h, Bool.and_false]

/-- Adding to a word whose bits 1:0 are 0 a number below 4 sets those bits only. -/
theorem add_small_eq_or {x : Word} {k : Nat} (hk : k < 4) (hx : ∀ i < 2, x.getLsbD i = false) :
    x + BitVec.ofNat 32 k = x ||| BitVec.ofNat 32 k := by
  refine BitVec.add_eq_or_of_and_eq_zero _ _ (BitVec.eq_of_getLsbD_eq fun i _ => ?_)
  rw [BitVec.getLsbD_and, BitVec.getLsbD_zero]
  by_cases h : i < 2
  · rw [hx i h, Bool.false_and]
  · rw [getLsbD_ofNat_small hk (by omega), Bool.and_false]

/-- Settles O39: byte `k` leaves the bits under `HIGH_MASK`, and adds `k` to those under `LOW_MASK`. -/
theorem aliasOfByteIsAliasOfWordBit : Obligations.AliasOfByteIsAliasOfWordBit := by
  intro c a k j hk hj ha hl hh
  have halow : ∀ i < 2, a.getLsbD i = false := fun i hi => aligned_low_bit (beq_iff_eq.2 ha) hi
  have hlbit : ∀ i < 2, c.lowMask.getLsbD i = true := fun i hi => by
    have e := congrArg (BitVec.getLsbD · i) hl
    simpa only [BitVec.getLsbD_and, three_getLsbD hi, Bool.and_true] using e
  have hhbit : ∀ i < 2, c.highMask.getLsbD i = false := fun i hi => by
    have e := congrArg (BitVec.getLsbD · i) hh
    simpa only [BitVec.getLsbD_and, three_getLsbD hi, Bool.and_true, BitVec.getLsbD_zero] using e
  have hhigh : (a + BitVec.ofNat 32 k) &&& c.highMask = a &&& c.highMask := by
    rw [add_small_eq_or hk halow, and_eq_and_iff]
    intro i hi
    have h2 : 2 ≤ i := by
      by_contra hlt
      rw [hhbit i (by omega)] at hi
      cases hi
    rw [BitVec.getLsbD_or, getLsbD_ofNat_small hk h2, Bool.or_false]
  have hlow : (a + BitVec.ofNat 32 k) &&& c.lowMask = (a &&& c.lowMask) + BitVec.ofNat 32 k := by
    rw [add_small_eq_or hk halow, add_small_eq_or hk fun i hi => by rw [BitVec.getLsbD_and, halow i hi, Bool.false_and]]
    apply BitVec.eq_of_getLsbD_eq
    intro i _
    simp only [BitVec.getLsbD_and, BitVec.getLsbD_or]
    by_cases h : i < 2
    · rw [halow i h, hlbit i h, Bool.false_and, Bool.and_true]
    · rw [getLsbD_ofNat_small hk (by omega), Bool.or_false, Bool.or_false]
  rw [aliasAddr, aliasAddr, hhigh, hlow]
  apply BitVec.eq_of_toNat_eq
  simp only [BitVec.toNat_add, BitVec.toNat_shiftLeft, BitVec.toNat_setWidth, BitVec.toNat_ofNat, Nat.shiftLeft_eq]
  omega

/-- WF3: an address of the alias window is outside the window (R9). -/
theorem inWindow_of_inAliasWindow {c : Config} {a : Word} (hc : configWf c = true) (h : inAliasWindow c a = true) :
    inWindow c a = false := by
  obtain ⟨-, -, h3, -⟩ := (configWf_iff c).1 hc
  simp only [wf3, inAliasWindow, inWindow, Bool.and_eq_true, Bool.or_eq_true, decide_eq_true_eq, Bool.and_eq_false_iff,
    decide_eq_false_iff_not, BitVec.le_def, BitVec.lt_def] at h3 h ⊢
  omega

/-- Settles O40. -/
theorem aliasWordsTakeTheDirectPath : Obligations.AliasWordsTakeTheDirectPath := by
  intro c op a hc h
  have hw := inWindow_of_inAliasWindow hc h
  cases op <;> simp [issuePhase, hw]

/-- Settles O41: a write of an alias word, its target MAPPED, in canonical memory. -/
theorem aliasWriteChangesOneBit : Obligations.AliasWriteChangesOneBit := by
  intro s a v hm hw hmapped
  obtain ⟨t, ht, -, hwritten⟩ := busWrite_written (v := v) (show isMapped s.cfg (targetWord s.cfg a) = true by
    rw [targetWord, if_pos hw]; exact hmapped)
  have h := (hwritten hm).2
  rw [WordWritten, if_pos hw] at h
  exact ⟨t, ht, h⟩

end Sys2Proof.Machine
end

section
/-! PROOF. The invariant of THE BLOCK: the modes a state of agreeing registers can be in (`10_state.md` R40), each part of
the invariant kept by every step, and the faults the invariant shuts out (`60_exceptions.md` R202). -/

namespace Sys2Proof.Machine

/-! ### The modes of a state whose registers agree -/

/-- The ways the sequencer, the engine and the client's registers agree (R40). -/
inductive Mode (s : State) : Prop where
  /-- At rest in PRE-INIT. -/
  | preInit (hs : s.seqState = 0x00#6) (hp : s.engPhase = .idle) (hi : s.seqIssued = false) (hd : s.engDone = false)
      (hb : s.clientBusy = false)
  /-- The CBS runs and has issued nothing. -/
  | fresh {q : SeqState} (h0 : q ≠ .idle) (h1 : q ≠ .stable) (hs : s.seqState = seqCode q) (hp : s.engPhase = .idle)
      (hi : s.seqIssued = false) (hd : s.engDone = false) (hb : s.clientBusy = true)
  /-- The CBS runs and its own operation is in flight. -/
  | own {q : SeqState} (hs : s.seqState = seqCode q) (hown : isOwnOperation q s = true) (hp : s.engPhase ≠ .idle)
      (hi : s.seqIssued = true) (hd : s.engDone = false) (hb : s.clientBusy = true) (ho : s.engOwner = .seq)
      (hf : phaseFits s = true)
  /-- The CBS runs and has its operation's result to consume. -/
  | done {q : SeqState} (hs : s.seqState = seqCode q) (he : isEngState s.cfg q = true) (hp : s.engPhase = .idle)
      (hi : s.seqIssued = true) (hd : s.engDone = true) (hb : s.clientBusy = true)
  /-- At rest in STABLE. -/
  | stable (hs : s.seqState = 0x20#6) (hp : s.engPhase = .idle) (hi : s.seqIssued = false) (hd : s.engDone = false)
      (hb : s.clientBusy = false)
  /-- The client's operation is in flight. -/
  | client (hs : s.seqState = 0x20#6) (hp : s.engPhase ≠ .idle) (hi : s.seqIssued = false) (hd : s.engDone = false)
      (hb : s.clientBusy = true) (ho : s.engOwner = .client) (hf : phaseFits s = true)

/-- The check of a state in which the CBS runs. -/
theorem blockConsistent_running {s : State} {q : SeqState} (hs : s.seqState = seqCode q) (h0 : q ≠ .idle)
    (h1 : q ≠ .stable) :
    blockConsistent s = (s.clientBusy
      && (if s.engPhase = .idle then s.seqIssued == s.engDone && (isEngState s.cfg q || !s.seqIssued)
          else s.engOwner == .seq && s.seqIssued && !s.engDone && isOwnOperation q s && phaseFits s)) := by
  cases q
  case idle => exact absurd rfl h0
  case stable => exact absurd rfl h1
  all_goals simp only [blockConsistent, hs, seqOfCode_seqCode]

theorem isEngState_of_isOwnOperation {s : State} {q : SeqState} (h : isOwnOperation q s = true) :
    isEngState s.cfg q = true := by
  simp only [isOwnOperation, Bool.and_eq_true, beq_iff_eq] at h
  simp [isEngState, h.1]

/-- Neither end state of the CBS uses the engine (R141). -/
theorem ne_of_isEngState {c : Config} {q : SeqState} (h : isEngState c q = true) : q ≠ .idle ∧ q ≠ .stable := by
  refine ⟨?_, ?_⟩ <;> rintro rfl <;> cases h

theorem blockConsistent_iff (s : State) : blockConsistent s = true ↔ Mode s := by
  constructor
  · intro h
    obtain ⟨q, hs⟩ := seqState_of_blockConsistent h
    by_cases h0 : q = .idle
    · subst h0
      simp only [blockConsistent, hs, seqOfCode_seqCode, Bool.and_eq_true, beq_iff_eq, Bool.not_eq_true'] at h
      obtain ⟨⟨⟨hp, hi⟩, hd⟩, hb⟩ := h
      exact .preInit hs hp hi hd hb
    by_cases h1 : q = .stable
    · subst h1
      simp only [blockConsistent, hs, seqOfCode_seqCode, Bool.and_eq_true, Bool.not_eq_true'] at h
      obtain ⟨⟨hi, hd⟩, h⟩ := h
      split at h
      · exact .stable hs ‹_› hi hd (by simpa using h)
      · simp only [Bool.and_eq_true, beq_iff_eq] at h
        obtain ⟨⟨hb, ho⟩, hf⟩ := h
        exact .client hs ‹_› hi hd hb ho hf
    rw [blockConsistent_running hs h0 h1, Bool.and_eq_true] at h
    obtain ⟨hb, h⟩ := h
    split at h
    · simp only [Bool.and_eq_true, beq_iff_eq, Bool.or_eq_true, Bool.not_eq_true'] at h
      obtain ⟨hid, he⟩ := h
      cases hi : s.seqIssued
      · exact .fresh h0 h1 hs ‹_› hi (hid ▸ hi) hb
      · exact .done hs (he.resolve_right (by simp [hi])) ‹_› hi (hid ▸ hi) hb
    · simp only [Bool.and_eq_true, beq_iff_eq, Bool.not_eq_true'] at h
      obtain ⟨⟨⟨⟨ho, hi⟩, hd⟩, hown⟩, hf⟩ := h
      exact .own hs hown ‹_› hi hd hb ho hf
  · intro h
    cases h with
    | preInit hs hp hi hd hb => exact blockConsistent_of_rest ⟨hp, hi, hd, hb⟩ (.inl hs)
    | fresh h0 h1 hs hp hi hd hb => rw [blockConsistent_running hs h0 h1]; simp [hp, hi, hd, hb]
    | own hs hown hp hi hd hb ho hf => exact blockConsistent_of_own hs hown hi hd hb ho hp hf
    | done hs he hp hi hd hb =>
      obtain ⟨h0, h1⟩ := ne_of_isEngState he
      rw [blockConsistent_running hs h0 h1]
      simp [he, hp, hi, hd, hb]
    | stable hs hp hi hd hb => exact blockConsistent_of_rest ⟨hp, hi, hd, hb⟩ (.inr hs)
    | client hs hp hi hd hb ho hf => exact blockConsistent_of_client hs hi hd hb ho hp hf

/-! ### The parts of the invariant -/

theorem clientFits_iff (s : State) :
    clientFits s = true ↔ (s.engPhase ≠ .idle → s.engOwner = .client →
      s.clientOp = some (clientOpOf s.engOp) ∧ operandCheck s.cfg s.engAddr s.engBit = none) := by
  unfold clientFits
  cases s.engOwner <;> by_cases hp : s.engPhase = .idle <;> simp [hp]

theorem runnerFits_iff (s : State) :
    runnerFits s = true ↔ (seqPhase s = .running → s.clientOp = some .initclk) := by
  unfold runnerFits seqPhase
  grind

theorem invariant_iff (s : State) :
    invariant s = true ↔
      s.mem.wf s.cfg = true ∧ Mode s ∧ clientFits s = true ∧ runnerFits s = true ∧ clockFits s = true := by
  simp only [invariant, Bool.and_eq_true, blockConsistent_iff, and_assoc]

/-- What the environment does before a step keeps the invariant (R63). -/
theorem invariant_absorb {s : State} (h : invariant s = true) : invariant (absorb s) = true := by
  obtain ⟨hm, hmode, hrest⟩ := (invariant_iff s).1 h
  refine (invariant_iff _).2 ⟨absorb_memory_wf hm, (blockConsistent_iff _).1 ?_, hrest⟩
  exact (blockConsistent_iff s).2 hmode

/-- The reset step's state is at rest in PRE-INIT (R230). -/
theorem invariant_blockReset {s : State} (h : s.mem.wf s.cfg = true) : invariant (blockReset s) = true :=
  (invariant_iff _).2 ⟨h, .preInit rfl rfl rfl rfl rfl, rfl, rfl, rfl⟩

/-! ### An engine phase keeps the mode or ends it -/

/-- States in which the check reads the same are in a mode together. -/
theorem Mode.of_eq {s t : State} (h : Mode s) (he : blockConsistent t = blockConsistent s) : Mode t :=
  (blockConsistent_iff t).1 (he ▸ (blockConsistent_iff s).2 h)

theorem busRead_shape {a v : Word} {s u : State} (h : busRead a s = .ok (v, u)) :
    ∃ ds n ev, u = { s with draws := ds, drawCount := n, events := ev } := ⟨_, _, _, busRead_frame h⟩

theorem busWrite_shape {a v : Word} {s u : State} (h : busWrite a v s = .ok u) :
    ∃ m ev, u = { s with mem := m, events := ev } := ⟨_, _, busWrite_frame h⟩

/-- An operation in flight goes on in another phase that fits it. -/
theorem Mode.advance {s : State} {p : EngPhase} (h : Mode s) (hp : s.engPhase ≠ .idle) (hne : p ≠ .idle)
    (hf : phaseFits { s with engPhase := p } = true) : Mode { s with engPhase := p } := by
  cases h with
  | own hs hown _ hi hd hb ho => exact .own hs hown hne hi hd hb ho hf
  | client hs _ hi hd hb ho => exact .client hs hne hi hd hb ho hf
  | preInit _ hidle | fresh _ _ _ hidle | done _ _ hidle | stable _ hidle => exact absurd hidle hp

/-- Completion leaves the CBS its result, or the machine at rest in STABLE (R107). -/
theorem Mode.complete {s : State} (h : Mode s) (hp : s.engPhase ≠ .idle) : Mode (complete s) := by
  cases h with
  | own hs hown _ hi _ hb ho =>
    obtain ⟨ho', -⟩ | ⟨-, he⟩ := complete_cases s
    · rw [ho] at ho'; cases ho'
    · rw [he]; exact .done hs (isEngState_of_isOwnOperation hown) rfl hi rfl hb
  | client hs _ hi hd _ ho =>
    obtain ⟨-, he⟩ | ⟨ho', -⟩ := complete_cases s
    · rw [he]; exact .stable hs rfl hi hd rfl
    · rw [ho] at ho'; cases ho'
  | preInit _ hidle | fresh _ _ _ hidle | done _ _ hidle | stable _ hidle => exact absurd hidle hp

/-- A phase that reads for a write fits as its write phase does (R106). -/
theorem phaseFits_readThenWrite {s : State} {p : EngPhase} (hp : ReadThenWrite s.engPhase p) (h : phaseFits s = true) :
    phaseFits { s with engPhase := p } = true := by
  generalize he : s.engPhase = p0 at hp
  cases hp <;> simpa only [phaseFits, he] using h

/-- After the clear half of a `WR` of 1 the set half fits (R106, R111). -/
theorem phaseFits_setHalf {s : State} (hp : s.engPhase = .dClrW) (hop : s.engOp = .wr) (hval : s.engVal = true)
    (h : phaseFits s = true) : phaseFits { s with engPhase := .dSetR } = true := by
  simp_all [phaseFits]

theorem phaseFits_of_mode {s : State} (h : Mode s) : phaseFits s = true := by
  cases h with
  | own _ _ _ _ _ _ _ hf | client _ _ _ _ _ _ hf => exact hf
  | preInit _ hidle | fresh _ _ _ hidle | done _ _ hidle | stable _ hidle => simp [phaseFits, hidle]

theorem EngineOutcome.mode {s t : State} (hmode : Mode s) (hp : s.engPhase ≠ .idle) (h : EngineOutcome s t) :
    Mode t := by
  cases h with
  | unmapped => exact hmode.of_eq rfl
  | @readsForWrite p v u hstep hread =>
    obtain ⟨ds, n, ev, rfl⟩ := busRead_shape hread
    have hne : p ≠ .idle := by
      generalize s.engPhase = p0 at hstep
      cases hstep <;> nofun
    exact (hmode.advance hp hne (phaseFits_readThenWrite hstep (phaseFits_of_mode hmode))).of_eq rfl
  | readsAndCompletes r hread =>
    obtain ⟨ds, n, ev, rfl⟩ := busRead_shape hread
    exact Mode.complete (hmode.of_eq rfl) hp
  | beginsSetHalf hclr hop hval hwrite =>
    obtain ⟨m, ev, rfl⟩ := busWrite_shape hwrite
    exact (hmode.advance (p := .dSetR) hp nofun (phaseFits_setHalf hclr hop hval (phaseFits_of_mode hmode))).of_eq rfl
  | writesAndCompletes hwrite =>
    obtain ⟨m, ev, rfl⟩ := busWrite_shape hwrite
    exact Mode.complete (hmode.of_eq rfl) hp

/-! ### A CBS step moves from mode to mode -/

theorem issuePhase_ne_idle (c : Config) (op : EngOp) (a : Word) : issuePhase c op a ≠ .idle := by
  rw [issuePhase_eq]
  cases op <;> (split <;> simp [directPhase])

theorem seqNext_ne_idle (c : Config) (v : Bool) (q : SeqState) : seqNext c v q ≠ .idle := by
  cases q
  case record => simp only [seqNext]; split <;> nofun
  all_goals cases v <;> nofun

/-- Entering a CBS state with nothing issued: about to begin its action, or at rest in STABLE (R164). -/
theorem Mode.enter {s : State} {q : SeqState} (hq : q ≠ .idle) (hp : s.engPhase = .idle) (hi : s.seqIssued = false)
    (hd : s.engDone = false) (hb : s.clientBusy = true) : Mode (enter q s) := by
  rcases enter_cases q s with ⟨-, he⟩ | ⟨h1, he⟩ <;> rw [he]
  · exact .stable rfl hp hi hd rfl
  · exact .fresh hq h1 rfl hp hi hd hb

/-- With the engine idle and the CBS running, the client waits. -/
theorem Mode.busy_of_running {s : State} (h : Mode s) (hrun : seqPhase s = .running) : s.clientBusy = true := by
  cases h with
  | preInit hs => exact absurd hrun (seqPhase_of_rest (.inl hs))
  | stable hs => exact absurd hrun (seqPhase_of_rest (.inr hs))
  | client _ _ _ _ hb | fresh _ _ _ _ _ _ hb | own _ _ _ _ _ hb | done _ _ _ _ _ hb => exact hb

/-- In a state that does not use the engine nothing is issued. -/
theorem Mode.nothing_issued {s : State} {q : SeqState} (h : Mode s) (hp : s.engPhase = .idle) (hs : s.seqState = seqCode q)
    (he : isEngState s.cfg q = false) : s.seqIssued = false ∧ s.engDone = false := by
  cases h with
  | @done q' hs' he' =>
    have hqq : seqOfCode (seqCode q) = seqOfCode (seqCode q') := by rw [← hs, ← hs']
    rw [seqOfCode_seqCode, seqOfCode_seqCode, Option.some_inj] at hqq
    rw [hqq, he'] at he; cases he
  | own _ _ hne => exact absurd hp hne
  | preInit _ _ hi hd | stable _ _ hi hd | client _ _ hi hd | fresh _ _ _ _ hi hd => exact ⟨hi, hd⟩

theorem SeqOutcome.mode {s t : State} {q : SeqState} (hmode : Mode s) (hp : s.engPhase = .idle)
    (hrun : seqPhase s = .running) (hs : s.seqState = seqCode q) (h : SeqOutcome s q t) : Mode t := by
  have hb := hmode.busy_of_running hrun
  have hnone : isEngState s.cfg q = false → s.seqIssued = false ∧ s.engDone = false := hmode.nothing_issued hp hs
  cases h with
  | rests | disagrees | unmapped => exact hmode.of_eq rfl
  | @issues op a b ha hi =>
    have hd : s.engDone = false := by
      cases hmode with
      | done _ _ _ hi' => rw [hi] at hi'; cases hi'
      | preInit _ _ _ hd | fresh _ _ _ _ _ hd | own _ _ _ _ hd | stable _ _ _ hd | client _ _ _ hd => exact hd
    exact .own (q := q) hs (by simp [isOwnOperation, ha]) (issuePhase_ne_idle _ _ _) rfl hd hb rfl
      (issue_phaseFits .seq op a b false s)
  | consumes => exact .enter (seqNext_ne_idle _ _ _) hp rfl rfl hb
  | writes n ha hwrite =>
    obtain ⟨hi, hd⟩ := hnone (by simp [isEngState, ha])
    obtain ⟨m, ev, rfl⟩ := busWrite_shape hwrite
    exact .enter (seqNext_ne_idle _ _ _) hp hi hd hb
  | ticks => exact hmode.of_eq rfl
  | settles ha | records ha =>
    obtain ⟨hi, hd⟩ := hnone (by simp [isEngState, ha])
    exact .enter (seqNext_ne_idle _ _ _) hp hi hd hb

/-! ### An accepting step moves from mode to mode -/

theorem seqState_of_stable {s : State} (h : seqPhase s = .stable) : s.seqState = 0x20#6 := by
  unfold seqPhase at h
  grind

/-- With the engine idle and the CBS not running, the machine is at rest. -/
theorem Mode.atRest {s : State} (h : Mode s) (hp : s.engPhase = .idle) (hrun : seqPhase s ≠ .running) : AtRest s := by
  cases h with
  | preInit _ hp hi hd hb | stable _ hp hi hd hb => exact ⟨hp, hi, hd, hb⟩
  | fresh h0 h1 hs => exact absurd (seqPhase_running hs h0 h1) hrun
  | done hs he => exact absurd (seqPhase_running hs (ne_of_isEngState he).1 (ne_of_isEngState he).2) hrun
  | own _ _ hne | client _ hne => exact absurd hp hne

theorem AcceptOutcome.mode {s t : State} (hmode : Mode s) (hrest : AtRest s) (h : AcceptOutcome s t) : Mode t := by
  obtain ⟨hp, hi, hd, hb⟩ := hrest
  cases h with
  | refused | unreachable => exact hmode.of_eq rfl
  | @issued a b op v hs =>
    exact .client (seqState_of_stable hs) (issuePhase_ne_idle _ _ _) hi hd rfl rfl (issue_phaseFits ..)
  | starts => exact .fresh (q := .oscPwrup) nofun nofun rfl hp hi hd rfl
  | answers f hs => exact .stable (seqState_of_stable hs) hp hi hd rfl

/-- Every step of THE BLOCK leads to a mode. -/
theorem BlockOutcome.mode {s t : State} (hmode : Mode s) (h : BlockOutcome s t) : Mode t := by
  cases h with
  | disagrees | refuses | waits => exact hmode.of_eq rfl
  | engine _ hp _ h => exact h.mode hmode hp
  | seq _ hp hrun hs _ h => exact h.mode hmode hp hrun hs
  | accepts _ hp hrun _ _ h =>
    refine AcceptOutcome.mode ?_ ?_ h
    · exact hmode.of_eq rfl
    · exact hmode.atRest hp hrun

/-! ### The other parts of the invariant are kept -/

theorem BlockOutcome.memory_wf {s t : State} (hm : s.mem.wf s.cfg = true) (h : BlockOutcome s t) :
    t.mem.wf t.cfg = true := by
  rw [h.cfg_eq]
  rcases h.mem with he | ⟨a, v, u, rest, hwrite, he, -⟩ <;> rw [he]
  · exact hm
  · have hu := busWrite_memory_wf hwrite hm
    rwa [show u.cfg = s.cfg by rw [busWrite_frame hwrite]] at hu

/-- A CBS step leaves no operation of the client's in flight. -/
theorem SeqOutcome.idle_or_seq {s t : State} {q : SeqState} (hp : s.engPhase = .idle) (h : SeqOutcome s q t) :
    t.engPhase = .idle ∨ t.engOwner = .seq := by
  cases h with
  | rests | disagrees | unmapped | ticks => exact .inl hp
  | issues => exact .inr rfl
  | consumes | settles | records => exact .inl (by rw [enter_frame]; exact hp)
  | writes _ _ hwrite => exact .inl (by rw [enter_frame, busWrite_frame hwrite]; exact hp)

theorem BlockOutcome.clientFits {s t : State} (hfits : clientFits s = true) (h : BlockOutcome s t) :
    clientFits t = true := by
  rw [clientFits_iff] at hfits ⊢
  cases h with
  | disagrees | refuses | waits => exact hfits
  | engine _ hp ht =>
    rw [ht, engineStep_frame]
    exact fun _ ho => hfits hp ho
  | seq _ hp _ _ _ h =>
    intro hne ho
    rcases h.idle_or_seq hp with hidle | hseq
    · exact absurd hidle hne
    · rw [hseq] at ho; cases ho
  | accepts _ hp _ _ _ h =>
    cases h with
    | refused | unreachable | starts | answers => exact fun hne => absurd hp hne
    | issued op v hs hchk => exact fun _ _ => ⟨rfl, hchk⟩

theorem BlockOutcome.runnerFits {s t : State} (hfits : runnerFits s = true) (h : BlockOutcome s t) :
    runnerFits t = true := by
  rw [runnerFits_iff] at hfits ⊢
  cases h with
  | disagrees | refuses | waits => exact hfits
  | engine _ _ ht => rw [ht, engineStep_frame]; exact hfits
  | seq _ _ hrun _ ht => rw [ht, seqStep_frame]; exact fun _ => hfits hrun
  | accepts _ _ hrun _ _ h =>
    cases h with
    | refused | unreachable | answers => exact fun h => absurd h hrun
    | issued op v hs => exact fun h => absurd h hrun
    | starts => exact fun _ => rfl

/-- Up to `S_RECORD` the next state of any state but that one is before it, and after it after (R141). -/
theorem seqNext_le_record_iff {c : Config} {v : Bool} {q : SeqState} (h : q ≠ .record) :
    seqCode (seqNext c v q) ≤ 0x12#6 ↔ seqCode q ≤ 0x12#6 := by
  cases q
  case record => exact absurd rfl h
  all_goals cases v <;> simp [seqNext, seqCode]

theorem seqNext_record_gt (c : Config) (v : Bool) : ¬ seqCode (seqNext c v .record) ≤ 0x12#6 := by
  simp only [seqNext]
  split <;> decide

theorem SeqOutcome.clockFits {s t : State} {q : SeqState} (hs : s.seqState = seqCode q) (hfits : clockFits s = true)
    (h : SeqOutcome s q t) : clockFits t = true := by
  have moves : ∀ {v : Bool} {u : State}, q ≠ .record → u.cfg = s.cfg → u.clockHz = s.clockHz →
      Machine.clockFits (enter (seqNext s.cfg v q) u) = true := by
    intro v u hq hc hz
    rw [enter_frame]
    simpa only [Machine.clockFits, seqNext_le_record_iff hq, hc, hz, ← hs] using hfits
  have not_record : ∀ {x : SeqAction}, seqAction s.cfg q = x → x ≠ .record → q ≠ .record := by
    rintro x hx hne rfl
    exact hne hx.symm
  cases h with
  | rests | issues | disagrees | unmapped | ticks => exact hfits
  | consumes ha => exact moves (not_record ha nofun) rfl rfl
  | writes n ha hwrite =>
    obtain ⟨m, ev, rfl⟩ := busWrite_shape hwrite
    exact moves (not_record ha nofun) rfl rfl
  | settles ha => exact moves (not_record ha nofun) rfl rfl
  | records ha =>
    obtain rfl := eq_record_of_seqAction ha
    rw [enter_frame]
    simp only [Machine.clockFits, if_neg (seqNext_record_gt _ _)]
    exact beq_self_eq_true _

theorem BlockOutcome.clockFits {s t : State} (hfits : clockFits s = true) (h : BlockOutcome s t) :
    clockFits t = true := by
  cases h with
  | disagrees | refuses | waits => exact hfits
  | engine _ _ ht => rw [ht, engineStep_frame]; exact hfits
  | seq _ _ _ hs _ h => exact h.clockFits hs hfits
  | accepts _ _ _ _ _ h =>
    cases h with
    | refused | unreachable | answers | issued => exact hfits
    | starts hs =>
      have h0 : s.seqState = 0x00#6 := seqState_of_preInit hs
      simpa [Machine.clockFits, h0, seqCode] using hfits

/-- Settles O56: the reset step's state is at rest; a step of THE BLOCK keeps each part. -/
theorem everyStepKeepsTheInvariant : Obligations.EveryStepKeepsTheInvariant := by
  intro s t hinv h
  obtain ⟨hm, hmode, hclient, hrunner, hclock⟩ := (invariant_iff _).1 (invariant_absorb hinv)
  obtain ⟨-, ⟨-, rfl⟩ | ⟨-, hblock⟩⟩ := step_cases h
  · exact invariant_blockReset hm
  · have hout := blockStep_outcome hblock
    exact (invariant_iff t).2 ⟨hout.memory_wf hm, hout.mode hmode, hout.clientFits hclient, hout.runnerFits hrunner,
      hout.clockFits hclock⟩

/-- Settles O55: by evaluation of the machine after reset. -/
theorem invariantHoldsAtReset : Obligations.InvariantHoldsAtReset := by
  unfold Obligations.InvariantHoldsAtReset
  decide

end Sys2Proof.Machine
end

section
/-! PROOF. What the invariant shuts out: the fault `INTERNAL_STATE`, the fault `UNMAPPED` of the bring-up, an address that
is not word-aligned; and the disagreements that raise `INTERNAL_STATE` (`60_exceptions.md` R202, R206, `20_memory.md`
R56). -/

namespace Sys2Proof.Machine

/-! ### The faults of a step -/

/-- With the engine idle, an operation of the CBS is issued exactly when its result is there to consume. -/
theorem Mode.issued_eq_done {s : State} (h : Mode s) (hp : s.engPhase = .idle) : s.seqIssued = s.engDone := by
  cases h with
  | preInit _ _ hi hd | stable _ _ hi hd | fresh _ _ _ _ hi hd | done _ _ _ hi hd => rw [hi, hd]
  | own _ _ hne | client _ hne => exact absurd hp hne

/-- An engine phase raises no fault but `UNMAPPED`, for the target of its address (R61). -/
theorem EngineOutcome.fault_cases {s t : State} (h : EngineOutcome s t) :
    t.fault = s.fault ∨ (t.fault = some .unmapped ∧ isMapped s.cfg (targetWord s.cfg (phaseAddr s)) = false) := by
  cases h with
  | unmapped hmap => exact .inr ⟨rfl, hmap⟩
  | readsForWrite _ hread =>
    obtain ⟨ds, n, ev, rfl⟩ := busRead_shape hread
    exact .inl rfl
  | readsAndCompletes r hread =>
    obtain ⟨ds, n, ev, rfl⟩ := busRead_shape hread
    exact .inl (by rw [complete_frame])
  | beginsSetHalf _ _ _ hwrite =>
    obtain ⟨m, ev, rfl⟩ := busWrite_shape hwrite
    exact .inl rfl
  | writesAndCompletes hwrite =>
    obtain ⟨m, ev, rfl⟩ := busWrite_shape hwrite
    exact .inl (by rw [complete_frame])

/-- A CBS step of agreeing registers raises no fault but `UNMAPPED`, for the target of its word (R61). -/
theorem SeqOutcome.fault_cases {s t : State} {q : SeqState} (hid : s.seqIssued = s.engDone) (h : SeqOutcome s q t) :
    t.fault = s.fault ∨ (t.fault = some .unmapped ∧ ∃ a v, seqAction s.cfg q = .word a v
      ∧ isMapped s.cfg (targetWord s.cfg a) = false) := by
  cases h with
  | rests | issues | ticks => exact .inl rfl
  | disagrees hi hd => rw [hi, hd] at hid; cases hid
  | consumes | settles | records => exact .inl (by rw [enter_frame])
  | writes _ _ hwrite => exact .inl (by rw [enter_frame, busWrite_frame hwrite])
  | unmapped ha hmap => exact .inr ⟨rfl, _, _, ha, hmap⟩

/-- After S_RECORD ClockState holds a value (R25). -/
theorem clockHz_of_stable {s : State} (hs : s.seqState = 0x20#6) (h : clockFits s = true) : s.clockHz ≠ none := by
  intro hn
  simp [clockFits, hs, hn] at h

/-- Settles O57: of the places that raise it, agreeing registers reach none. -/
theorem internalStateFaultIsUnreachable : Obligations.InternalStateFaultIsUnreachable := by
  intro s t hinv hfault h
  obtain ⟨-, hmode, -, -, hclock⟩ := (invariant_iff _).1 (invariant_absorb hinv)
  obtain ⟨-, ⟨-, rfl⟩ | ⟨-, hblock⟩⟩ := step_cases h
  · exact hfault
  have keeps : t.fault = (absorb s).fault ∨ t.fault = some .unmapped := by
    cases blockStep_outcome hblock with
    | disagrees hcon => rw [(blockConsistent_iff _).2 hmode] at hcon; cases hcon
    | engine _ _ _ h => exact h.fault_cases.imp_right And.left
    | seq _ hp _ _ _ h => exact (h.fault_cases (hmode.issued_eq_done hp)).imp_right And.left
    | refuses | waits => exact .inl rfl
    | accepts _ _ hrun _ _ h =>
      cases h with
      | refused | issued | starts | answers => exact .inl rfl
      | unreachable hwhy =>
        rcases hwhy with hr | ⟨hs, hz⟩
        · exact absurd hr hrun
        · exact absurd hz (clockHz_of_stable (s := absorb s) (seqState_of_stable hs) hclock)
  rcases keeps with he | he <;> rw [he]
  · exact hfault
  · nofun

/-! ### The words of the bring-up -/

/-- A clock-control register or an acknowledge word (R7, R33). -/
abbrev ClockWord (c : Config) (a : Word) : Prop := a ∈ clockRegs c ∨ ∃ k ∈ ackLocs c, k.addr = a

/-- Every CBS state acts on a clock-control register or an acknowledge word (R141). -/
theorem clockWord_of_seqAction {c : Config} {q : SeqState} {a : Word}
    (h : (∃ op b, seqAction c q = .eng op a b) ∨ ∃ v, seqAction c q = .word a v) : ClockWord c a := by
  cases q <;> simp only [seqAction, reduceCtorEq, exists_false, or_false, false_or, SeqAction.eng.injEq,
    SeqAction.word.injEq, exists_and_left, exists_eq', and_true, exists_and_right, true_and] at h <;> subst h
    <;> simp [ClockWord, clockRegs, ackLocs, uenAddr, ackLoc]

/-- WF5: such a word is word-aligned and MAPPED (R9). -/
theorem clockWord_wf {c : Config} {a : Word} (hc : configWf c = true) (h : ClockWord c a) :
    wordAligned a = true ∧ isMapped c a = true := by
  obtain ⟨-, -, -, -, h5, -⟩ := (configWf_iff c).1 hc
  simp only [wf5, Bool.and_eq_true, List.all_eq_true] at h5
  obtain ⟨⟨hregs, hacks⟩, -⟩ := h5
  rcases h with h | ⟨k, hk, rfl⟩
  · exact hregs a h
  · exact (hacks k hk).1

theorem clockWord_plain {c : Config} {a : Word} (hplain : clockWordsPlain c = true) (h : ClockWord c a) :
    inAliasWindow c a = false := by
  simp only [clockWordsPlain, Bool.and_eq_true, List.all_eq_true, Bool.not_eq_true'] at hplain
  rcases h with h | ⟨k, hk, rfl⟩
  · exact hplain.1 a h
  · exact hplain.2 k hk

/-- The transaction of a plain clock word is about the word itself, which is MAPPED. -/
theorem clockWord_target {c : Config} {a : Word} (hc : configWf c = true) (hplain : clockWordsPlain c = true)
    (h : ClockWord c a) : isMapped c (targetWord c a) = true := by
  rw [targetWord, if_neg (by simp [clockWord_plain hplain h])]
  exact (clockWord_wf hc h).2

theorem clockWord_of_isOwnOperation {s : State} {q : SeqState} (h : isOwnOperation q s = true) :
    ClockWord s.cfg s.engAddr := by
  simp only [isOwnOperation, Bool.and_eq_true, beq_iff_eq] at h
  exact clockWord_of_seqAction (.inl ⟨_, _, h.1⟩)

/-- In an alias phase that fits, the phase's address is the alias of the operation's word and bit (R105). -/
theorem phaseAddr_alias {s : State} (hf : phaseFits s = true) (hp : s.engPhase = .aWrite ∨ s.engPhase = .aRead) :
    inWindow s.cfg s.engAddr = true ∧ phaseAddr s = aliasAddr s.cfg s.engAddr s.engBit := by
  rw [phaseAddr_of_alias_phase hp]
  rcases hp with hp | hp <;> simp only [phaseFits, hp, Bool.and_eq_true, beq_iff_eq] at hf
  · exact ⟨hf.1.1.1, hf.1.1.2⟩
  · exact ⟨hf.1.1, hf.1.2⟩

/-- The transaction of the CBS's own operation is about a MAPPED word. -/
theorem own_target_mapped {s : State} {q : SeqState} (hc : configWf s.cfg = true) (hplain : clockWordsPlain s.cfg = true)
    (hm : MasksDisjoint s.cfg) (hown : isOwnOperation q s = true) (hf : phaseFits s = true) :
    isMapped s.cfg (targetWord s.cfg (phaseAddr s)) = true := by
  have hword := clockWord_of_isOwnOperation hown
  by_cases hp : s.engPhase = .aWrite ∨ s.engPhase = .aRead
  · obtain ⟨hw, ha⟩ := phaseAddr_alias hf hp
    obtain ⟨haligned, hmapped⟩ := clockWord_wf hc hword
    rw [ha, targetWord, if_pos (inAliasWindow_aliasAddr s.engBit hc ⟨hw, haligned⟩),
      aliasDecode_aliasAddr s.engBit hc hm ⟨hw, haligned⟩]
    exact hmapped
  · rw [phaseAddr_of_direct_phase hp]
    exact clockWord_target hc hplain hword

/-- Settles O58: the bus answers the CBS's own operation and its words, and nothing else can fault. -/
theorem bringupIsNeverUnmapped : Obligations.BringupIsNeverUnmapped := by
  intro s t hinv hrun hplain hm hr h
  obtain ⟨-, hmode, -⟩ := (invariant_iff _).1 (invariant_absorb hinv)
  obtain ⟨hc, ⟨hreset, -⟩ | ⟨-, hblock⟩⟩ := step_cases h
  · rw [hr] at hreset; cases hreset
  have hnone : (absorb s).fault = none := (unmarked_of_blockStep_next hblock).2
  cases blockStep_outcome hblock with
  | disagrees hcon => rw [(blockConsistent_iff _).2 hmode] at hcon; cases hcon
  | engine _ hp _ h =>
    rcases h.fault_cases with he | ⟨-, hmap⟩
    · exact he.trans hnone
    · cases hmode with
      | own hs hown _ _ _ _ _ hf => rw [own_target_mapped (s := absorb s) hc hplain hm hown hf] at hmap; cases hmap
      | client hs => exact absurd hrun (seqPhase_of_rest (.inr hs))
      | preInit _ hidle | fresh _ _ _ hidle | done _ _ hidle | stable _ hidle => exact absurd hidle hp
  | seq _ hp _ _ _ h =>
    rcases h.fault_cases (hmode.issued_eq_done hp) with he | ⟨-, a, v, ha, hmap⟩
    · exact he.trans hnone
    · rw [absorb_cfg] at ha hmap
      rw [clockWord_target hc hplain (clockWord_of_seqAction (.inr ⟨v, ha⟩))] at hmap
      cases hmap
  | refuses | waits => exact hnone
  | accepts _ _ hrest => exact absurd hrun hrest

/-! ### Addresses are word-aligned -/

/-- An address and any mask of it are multiples of 4 together. -/
theorem and_mod_four {a m : Word} (h : wordAligned a = true) : (a &&& m).toNat % 4 = 0 := by
  rw [← wordAligned_iff_toNat, wordAligned, beq_iff_eq]
  apply BitVec.eq_of_getLsbD_eq
  intro i hi
  simp [BitVec.getLsbD_extractLsb', aligned_low_bit h hi]

/-- WF4: the offset of the alias window is a multiple of 4 (R9). -/
theorem aliasOffset_mod_four {c : Config} (hc : configWf c = true) : c.aliasOffset.toNat % 4 = 0 := by
  obtain ⟨-, -, -, h4, -⟩ := (configWf_iff c).1 hc
  have h := congrArg BitVec.toNat (eq_of_beq h4)
  have hhigh : (0x40000000#32 &&& c.highMask).toNat % 4 = 0 := and_mod_four rfl
  simp only [aliasAddr, BitVec.toNat_add, BitVec.toNat_shiftLeft, BitVec.toNat_setWidth, Nat.shiftLeft_eq,
    BitVec.toNat_ofNat] at h
  omega

/-- The alias of a word-aligned address is word-aligned (R56, R101). -/
theorem aliasAddr_aligned {c : Config} {a : Word} (b : BitIndex) (hc : configWf c = true) (ha : wordAligned a = true) :
    wordAligned (aliasAddr c a b) = true := by
  have hoff := aliasOffset_mod_four hc
  have hhigh : (a &&& c.highMask).toNat % 4 = 0 := and_mod_four ha
  rw [wordAligned_iff_toNat]
  simp only [aliasAddr, BitVec.toNat_add, BitVec.toNat_shiftLeft, BitVec.toNat_setWidth, Nat.shiftLeft_eq]
  omega

/-- Operands that pass the client's checks have an aligned address (R104). -/
theorem wordAligned_of_operandCheck {c : Config} {a : Word} {b : BitIndex} (h : operandCheck c a b = none) :
    wordAligned a = true := by
  unfold operandCheck at h
  cases ha : wordAligned a
  · simp [ha] at h
  · rfl

/-- The word of an operation in flight is word-aligned: a client's was checked, the CBS's is a clock word. -/
theorem engAddr_aligned {s : State} (hc : configWf s.cfg = true) (hmode : Mode s) (hfits : clientFits s = true)
    (hp : s.engPhase ≠ .idle) : wordAligned s.engAddr = true := by
  cases hmode with
  | own _ hown => exact (clockWord_wf hc (clockWord_of_isOwnOperation hown)).1
  | client _ _ _ _ _ ho => exact wordAligned_of_operandCheck ((clientFits_iff s).1 hfits hp ho).2
  | preInit _ hidle | fresh _ _ _ hidle | done _ _ hidle | stable _ hidle => exact absurd hidle hp

/-- The address of a step's transaction is word-aligned. -/
theorem transactionAddr_aligned {s : State} (hc : configWf s.cfg = true) (hmode : Mode s) (hfits : clientFits s = true) :
    wordAligned (transactionAddr s) = true := by
  by_cases hp : s.engPhase = .idle
  · unfold transactionAddr
    rw [if_neg (not_not.2 hp)]
    split
    · rename_i a v h
      obtain ⟨q, -, hq⟩ := Option.map_eq_some_iff.1 h
      exact (clockWord_wf hc (clockWord_of_seqAction (.inr ⟨v, hq⟩))).1
    · rfl
  · have ha := engAddr_aligned hc hmode hfits hp
    rw [transactionAddr_of_engine hp]
    by_cases hphase : s.engPhase = .aWrite ∨ s.engPhase = .aRead
    · rw [(phaseAddr_alias (phaseFits_of_mode hmode) hphase).2]
      exact aliasAddr_aligned _ hc ha
    · rwa [phaseAddr_of_direct_phase hphase]

theorem StepEvents.mem_cases {a : Word} {new : List Event} {e : Event} (h : StepEvents a new) (he : e ∈ new) :
    (∃ v, e = .busR a v) ∨ (∃ v, e = .busW a v) ∨ ∃ d, e = .resp d := by
  cases h <;> grind

/-- Settles O59: a step's events are of one transaction, at an aligned address. -/
theorem everyBusAddressIsAligned : Obligations.EveryBusAddressIsAligned := by
  intro s t hinv h new hnew e he
  obtain ⟨-, hmode, hclient, -⟩ := (invariant_iff _).1 (invariant_absorb hinv)
  obtain ⟨hc, -⟩ := step_cases h
  have ha := eq_of_beq (transactionAddr_aligned (s := absorb s) hc hmode hclient)
  obtain ⟨new', hnew', hkind⟩ := step_events h
  obtain rfl : new = new' := List.append_cancel_left (hnew.symm.trans hnew')
  rcases hkind.mem_cases he with ⟨v, rfl⟩ | ⟨v, rfl⟩ | ⟨d, rfl⟩
  · exact ha
  · exact ha
  · trivial

/-! ### The rows of R141, as CBS states -/

theorem oscCtrlValue_eq (c : Config) :
    oscCtrlValue c = ((if c.fXtal > c.xtalRangeThreshold then 1#32 else 0#32) <<< 1) ||| BitVec.ofNat 32 c.oscBypass := by
  unfold oscCtrlValue freqRange
  split <;> rfl

theorem wordRow_state {c : Config} {row : BitVec 6 × Word × Word × BitVec 6} (h : row ∈ wordRows c) :
    ∃ q, seqOfCode row.1 = some q ∧ seqAction c q = .word row.2.1 row.2.2.1 ∧ row.2.2.2 = seqCode (seqNext c false q) := by
  simp only [wordRows, List.mem_cons, List.not_mem_nil, or_false] at h
  rcases h with rfl | rfl | rfl | rfl | rfl | rfl | rfl | rfl | rfl | rfl | rfl | rfl | rfl | rfl | rfl | rfl | rfl | rfl
    | rfl | rfl
  case inl => exact ⟨.oscCfg, rfl, by simp only [seqAction, oscCtrlValue_eq]; rfl, rfl⟩
  all_goals exact ⟨_, rfl, rfl, rfl⟩

/-- A polling row: the state reads the row's bit, moves on to the row's successor on 1 and stays on 0 (R150, R156). -/
theorem pollRow_state {c : Config} {row : BitVec 6 × Word × BitIndex × BitVec 6} (h : row ∈ pollRows c) :
    ∃ q q', row.1 = seqCode q ∧ seqAction c q = .eng .rd row.2.1 row.2.2.1 ∧ row.2.2.2 = seqCode q'
      ∧ ∀ v, seqNext c v q = if v then q' else q := by
  simp only [pollRows, List.mem_cons, List.not_mem_nil, or_false] at h
  rcases h with rfl | rfl | rfl | rfl | rfl | rfl
  · exact ⟨.pllsrcAck, .pllPwrup, rfl, rfl, rfl, fun _ => rfl⟩
  · exact ⟨.pllLock, .mainWr, rfl, rfl, rfl, fun _ => rfl⟩
  · exact ⟨.mainAck, .divWr, rfl, rfl, rfl, fun _ => rfl⟩
  · exact ⟨.usbsrcAck, .usbPwrup, rfl, rfl, rfl, fun _ => rfl⟩
  · exact ⟨.usbpllLock, .usbselWr, rfl, rfl, rfl, fun _ => rfl⟩
  · exact ⟨.usbselAck, .stable, rfl, rfl, rfl, fun _ => rfl⟩

/-- A power-up row: the state clears the row's bit of `PDRUNCFG` and moves on to the row's successor (R147, R154). -/
theorem powerRow_state {c : Config} {row : BitVec 6 × BitIndex × BitVec 6} (h : row ∈ powerRows c) :
    ∃ q q', row.1 = seqCode q ∧ seqAction c q = .eng .clr (c.map.base + c.map.pdRunCfg) row.2.1 ∧ row.2.2 = seqCode q'
      ∧ q' ≠ .stable ∧ ∀ v, seqNext c v q = q' := by
  simp only [powerRows, List.mem_cons, List.not_mem_nil, or_false] at h
  rcases h with rfl | rfl | rfl
  · exact ⟨.oscPwrup, .oscCfg, rfl, rfl, rfl, nofun, fun _ => rfl⟩
  · exact ⟨.pllPwrup, .pllCfg, rfl, rfl, rfl, nofun, fun _ => rfl⟩
  · exact ⟨.usbPwrup, .usbpllCfg, rfl, rfl, rfl, nofun, fun _ => rfl⟩

/-! ### Disagreements -/

theorem seqCode_injective {q q' : SeqState} (h : seqCode q = seqCode q') : q = q' := by
  have e := congrArg seqOfCode h
  rwa [seqOfCode_seqCode, seqOfCode_seqCode, Option.some_inj] at e

theorem seqCode_le_stable (q : SeqState) : seqCode q ≤ 0x20#6 := by cases q <;> decide

/-- While an operation is in flight in a CBS state that runs, it is the state's own, in a phase that fits it. -/
theorem Mode.own_of_running {s : State} {q : SeqState} (h : Mode s) (hp : s.engPhase ≠ .idle) (hs : s.seqState = seqCode q)
    (h1 : q ≠ .stable) : seqAction s.cfg q = .eng s.engOp s.engAddr s.engBit ∧ s.engVal = false ∧ phaseFits s = true := by
  cases h with
  | own hs' hown _ _ _ _ _ hf =>
    obtain rfl := seqCode_injective (hs.symm.trans hs')
    simp only [isOwnOperation, Bool.and_eq_true, beq_iff_eq, Bool.not_eq_true'] at hown
    exact ⟨hown.1, hown.2, hf⟩
  | client hs' => exact absurd (seqCode_injective (q' := .stable) (hs.symm.trans hs')) h1
  | preInit _ hidle | fresh _ _ _ hidle | done _ _ hidle | stable _ hidle => exact absurd hidle hp

/-- A read in flight is in one of the two phases that read for it (R105). -/
theorem phase_of_rd {s : State} (hf : phaseFits s = true) (hop : s.engOp = .rd) (hp : s.engPhase ≠ .idle) :
    s.engPhase ∈ [EngPhase.aRead, .dRead] := by
  cases h : s.engPhase <;> simp_all [phaseFits]

/-- A clear in flight is in one of the three phases that carry it out (R105, R106). -/
theorem phase_of_clr {s : State} (hf : phaseFits s = true) (hop : s.engOp = .clr) (hp : s.engPhase ≠ .idle) :
    s.engPhase ∈ [EngPhase.aWrite, .dClrR, .dClrW] := by
  cases h : s.engPhase <;> simp_all [phaseFits]

/-- A state that acts is not `S_STABLE` (R141). -/
theorem ne_stable_of_seqAction {c : Config} {q : SeqState} {x : SeqAction} (h : seqAction c q = x) (hx : x ≠ .rest) :
    q ≠ .stable := by
  rintro rfl
  exact hx h.symm

theorem blockStep_of_disagreement {u : State} (h1 : u.refused = none) (h2 : u.fault = none)
    (hcon : blockConsistent u = false) : blockStep u = .next (raiseFault .internalState u) := by
  simp only [blockStep, h1, h2, hcon, if_true]

/-- Settles O60: in each of the five cases the registers are in no mode. -/
theorem disagreementRaisesInternalState : Obligations.DisagreementRaisesInternalState := by
  intro s hc hr hm hwhy
  have hno : ¬ Mode s := by
    intro hmode
    rcases hwhy with hcode | ⟨hi, hp, hd⟩ | ⟨row, hrow, hs, hp⟩ | ⟨row, hrow, hs, hp, hbad⟩ | ⟨row, hrow, hs, hp, hbad⟩
    · obtain ⟨q, hq⟩ := seqState_of_blockConsistent ((blockConsistent_iff s).2 hmode)
      rw [hq] at hcode
      exact absurd (seqCode_le_stable q) (BitVec.not_le.2 hcode)
    · have hid := hmode.issued_eq_done hp
      rw [hi, hd] at hid; cases hid
    · obtain ⟨q, hq, ha, -⟩ := wordRow_state hrow
      have hown := (hmode.own_of_running hp (hs.trans (seqCode_of_seqOfCode hq)) (ne_stable_of_seqAction ha nofun)).1
      rw [ha] at hown; cases hown
    · obtain ⟨q, q', hq, ha, -⟩ := pollRow_state hrow
      obtain ⟨hown, -, hf⟩ := hmode.own_of_running hp (hs.trans hq) (ne_stable_of_seqAction ha nofun)
      rw [ha] at hown
      injection hown with hop haddr hbit
      rcases hbad with h | h | h | h
      · exact h (phase_of_rd hf hop.symm hp)
      · exact h hop.symm
      · exact h haddr.symm
      · exact h hbit.symm
    · obtain ⟨q, q', hq, ha, -⟩ := powerRow_state hrow
      obtain ⟨hown, -, hf⟩ := hmode.own_of_running hp (hs.trans hq) (ne_stable_of_seqAction ha nofun)
      rw [ha] at hown
      injection hown with hop haddr hbit
      rcases hbad with h | h | h | h
      · exact h (phase_of_clr hf hop.symm hp)
      · exact h hop.symm
      · exact h haddr.symm
      · exact h hbit.symm
  have hcon : blockConsistent (absorb s) = false := by
    rw [← Bool.not_eq_true]
    exact fun h => hno ((blockConsistent_iff s).1 h)
  exact (step_eq_blockStep hc hr).trans (blockStep_of_disagreement (u := absorb s) hm.1 hm.2 hcon)

end Sys2Proof.Machine
end

section
/-! PROOF. The engine's transactions in the terms of the statements: the phases of a read, of an alias write and of the two
halves of a direct write, and the steps that make them while an operation is in flight (`40_bit_access.md` R105 to R112). -/

namespace Sys2Proof.Machine

/-! ### Issue and completion -/

/-- On the direct path issue writes neither `eng_alias` nor `eng_wdata` (R105). -/
theorem issue_direct {s : State} {a : Word} (hw : inWindow s.cfg a = false) (o : Owner) (op : EngOp) (b : BitIndex)
    (v : Bool) :
    issue o op a b v s = { s with
      engOwner := o, engOp := op, engAddr := a, engBit := b, engVal := v, engPhase := directPhase op } := by
  cases op <;> simp only [issue, issuePhase, directPhase, hw, Bool.false_eq_true, Bool.false_and, if_false]

/-- On the alias path issue computes the alias, and the data word of a write (R105). -/
theorem issue_alias {s : State} {a : Word} (hw : inWindow s.cfg a = true) (o : Owner) (op : EngOp) (b : BitIndex)
    (v : Bool) :
    issue o op a b v s = { s with
      engOwner := o, engOp := op, engAddr := a, engBit := b, engVal := v, engAlias := aliasAddr s.cfg a b
      engWdata := if op = .rd then s.engWdata else issueWdata op v
      engPhase := if op = .rd then .aRead else .aWrite } := by
  cases op <;> simp [issue, issuePhase, hw]

theorem complete_of_client {s : State} (ho : s.engOwner = .client) :
    complete s = { s with
      engPhase := .idle, clientBusy := false, rsp := some (completionWord s)
      events := s.events ++ [.resp (completionWord s)] } := by
  simp only [complete, ho]
  rfl

theorem complete_of_seq {s : State} (ho : s.engOwner = .seq) :
    complete s = { s with engPhase := .idle, engDone := true } := by
  simp only [complete, ho]

/-! ### A step while an operation is in flight -/

/-- An operation is in flight in an unmarked machine whose registers agree. -/
structure InFlight (s : State) : Prop where
  wf : configWf s.cfg = true
  unmarked : Unmarked s
  mode : Mode s
  phase : s.engPhase ≠ .idle

/-- While an operation is in flight, a step without reset is its engine phase, from the state the environment leaves. -/
theorem InFlight.step_eq {s : State} (h : InFlight s) (hr : resetRaised s = false) :
    step s = .next (engineStep (absorb s)) := by
  rw [step_eq_blockStep h.wf hr]
  exact blockStep_of_engine (u := absorb s) h.unmarked.1 h.unmarked.2 ((blockConsistent_iff s).2 h.mode) h.phase

/-- Before each of the next `k` steps the environment does nothing. -/
def CalmFor (k : Nat) (s : State) : Prop := ∀ x ∈ s.stimuli.take k, x = {}

theorem calmFor_of_quiet {s : State} (h : s.stimuli = []) (k : Nat) : CalmFor k s := by
  simp [CalmFor, h]

theorem stimulus_of_calm {s : State} {k : Nat} (h : CalmFor (k + 1) s) : stimulus s = {} := by
  unfold stimulus
  cases hs : s.stimuli with
  | nil => rfl
  | cons x rest => exact h x (by simp [hs])

/-- A step the environment does nothing before starts from the state itself, the old response gone. -/
theorem absorb_of_calm {s : State} {k : Nat} (h : CalmFor (k + 1) s) :
    absorb s = { s with rsp := none, stimuli := s.stimuli.drop 1 } := by
  simp only [absorb, stimulus_of_calm h, List.foldl_nil, Option.toList_none, List.append_nil, List.drop_one]

theorem resetRaised_of_calm {s : State} {k : Nat} (h : CalmFor (k + 1) s) : resetRaised s = false := by
  simp only [resetRaised, stimulus_of_calm h]

theorem CalmFor.tail {s t : State} {k : Nat} (h : CalmFor (k + 1) s) (ht : t.stimuli = s.stimuli.drop 1) :
    CalmFor k t := by
  unfold CalmFor at *
  rw [ht]
  cases hs : s.stimuli with
  | nil => simp
  | cons x rest =>
    rw [hs] at h
    exact fun y hy => h y (List.mem_cons_of_mem x hy)

/-! ### A read -/

/-- The engine reaches `(a, b)` and the bus answers there: on the alias path the decoded word is `a` again (R102). -/
theorem target_busAddress {c : Config} {a : Word} (b : BitIndex) (hc : configWf c = true) (ha : wordAligned a = true)
    (hr : EngineReaches c a) (hm : inWindow c a = true → isMapped c a = true) :
    isMapped c (targetWord c (busAddress c a b)) = true := by
  rcases hr with ⟨hw, hd⟩ | ⟨hw, hmap⟩
  · rw [busAddress, if_pos hw, targetWord, if_pos (inAliasWindow_aliasAddr b hc ⟨hw, ha⟩),
      aliasDecode_aliasAddr b hc hd ⟨hw, ha⟩]
    exact hm hw
  · rwa [busAddress, if_neg (by simp [hw])]

/-- The bit the engine keeps of the word answered: bit 0 on the alias path, bit `b` on the direct path (R106). -/
theorem engineBit_eq {s : State} {a : Word} (b : BitIndex) (hc : configWf s.cfg = true) (ha : wordAligned a = true)
    (hr : EngineReaches s.cfg a) :
    engineBit s a b = if inWindow s.cfg a then (answer s (busAddress s.cfg a b)).getLsbD 0
      else bitOf (answer s a) b := by
  rcases hr with ⟨hw, hd⟩ | ⟨hw, -⟩
  · simp only [engineBit, busAddress, hw, if_true]
    rw [answer_alias_bit (inAliasWindow_aliasAddr b hc ⟨hw, ha⟩), aliasDecode_aliasAddr b hc hd ⟨hw, ha⟩]
  · simp only [engineBit, hw, Bool.false_eq_true, if_false, bitOf]

theorem engineStep_aRead {s u : State} {v : Word} (hp : s.engPhase = .aRead) (h : busRead s.engAlias s = .ok (v, u)) :
    engineStep s = complete { u with engResult := v.getLsbD 0 } := by
  simp only [engineStep, hp, phaseARead, h]

theorem engineStep_dRead {s u : State} {v : Word} (hp : s.engPhase = .dRead) (h : busRead s.engAddr s = .ok (v, u)) :
    engineStep s = complete { u with engResult := bitOf v s.engBit } := by
  simp only [engineStep, hp, phaseDRead, h]

theorem engineStep_aWrite {s u : State} (hp : s.engPhase = .aWrite) (h : busWrite s.engAlias s.engWdata s = .ok u) :
    engineStep s = complete u := by
  simp only [engineStep, hp, phaseAWrite, h]

/-- The one phase of a `RD` reads at the operation's bus address and completes with the bit (R106, R108). -/
theorem engineStep_read {s : State} (hc : configWf s.cfg = true) (hf : phaseFits s = true) (hop : s.engOp = .rd)
    (hp : s.engPhase ≠ .idle) (ha : wordAligned s.engAddr = true) (hr : EngineReaches s.cfg s.engAddr)
    (hm : inWindow s.cfg s.engAddr = true → isMapped s.cfg s.engAddr = true) {A : Word}
    (hA : A = busAddress s.cfg s.engAddr s.engBit) :
    engineStep s = complete { s with
      draws := s.draws.drop (drawsOf s.cfg A), drawCount := s.drawCount + drawsOf s.cfg A
      events := s.events ++ [.busR A (answer s A)], engResult := engineBit s s.engAddr s.engBit } := by
  have hread := busRead_answer (s := s) (target_busAddress s.engBit hc ha hr hm)
  rw [engineBit_eq _ hc ha hr]
  have hphase := phase_of_rd hf hop hp
  simp only [List.mem_cons, List.not_mem_nil, or_false] at hphase
  rcases hphase with hp | hp
  · obtain ⟨hw, halias⟩ := phaseAddr_alias hf (.inr hp)
    rw [phaseAddr_of_alias_phase (.inr hp)] at halias
    have hbus : busAddress s.cfg s.engAddr s.engBit = s.engAlias := by rw [busAddress, if_pos hw, halias]
    rw [hbus] at hA hread
    rw [engineStep_aRead hp hread, if_pos hw, hbus, hA]
    rfl
  · have hw : ¬ inWindow s.cfg s.engAddr = true := by
      simp only [phaseFits, hp, Bool.and_eq_true, Bool.not_eq_true'] at hf
      simp [hf.1]
    have hbus : busAddress s.cfg s.engAddr s.engBit = s.engAddr := by rw [busAddress, if_neg hw]
    rw [hbus] at hA hread
    rw [engineStep_dRead hp hread, if_neg hw, hA]
    rfl

/-! ### A write on the alias path -/

/-- The one phase of a write on the alias path changes the operation's bit and completes (R53, R106). -/
theorem engineStep_aliasWrite {s : State} (hc : configWf s.cfg = true) (hf : phaseFits s = true)
    (hp : s.engPhase = .aWrite) (ha : wordAligned s.engAddr = true) (hm : isMapped s.cfg s.engAddr = true)
    (hd : MasksDisjoint s.cfg) :
    ∃ m, engineStep s = complete { s with
        mem := m, events := s.events ++ [.busW (aliasAddr s.cfg s.engAddr s.engBit) s.engWdata] }
      ∧ (s.mem.wf s.cfg = true → Memory.wf m s.cfg = true
          ∧ OneBitChanged s.engAddr s.engBit (s.engWdata.getLsbD 0) s { s with mem := m }) := by
  obtain ⟨hw, halias⟩ := phaseAddr_alias hf (.inl hp)
  rw [phaseAddr_of_alias_phase (.inl hp)] at halias
  have hin := inAliasWindow_aliasAddr s.engBit hc ⟨hw, ha⟩
  have hdecode := aliasDecode_aliasAddr s.engBit hc hd ⟨hw, ha⟩
  have hmap : isMapped s.cfg (targetWord s.cfg (aliasAddr s.cfg s.engAddr s.engBit)) = true := by
    rwa [targetWord, if_pos hin, hdecode]
  obtain ⟨t, ht, hframe, hwf⟩ := busWrite_written (v := s.engWdata) hmap
  refine ⟨t.mem, ?_, fun hmem => ?_⟩
  · rw [engineStep_aWrite hp (halias ▸ ht), ← hframe]
  · obtain ⟨hmw, hwritten⟩ := hwf hmem
    rw [WordWritten, if_pos hin, hdecode] at hwritten
    rw [hframe] at hmw hwritten
    exact ⟨hmw, hwritten⟩

/-! ### The two halves of a write on the direct path -/

/-- The halves of a direct write (R106): `CLR` is the clear half, `SET` the set half, a `WR` the clear half and, of 1, the
set half after it. -/
inductive Half where
  | clear | set
deriving DecidableEq

def Half.readPhase : Half → EngPhase
  | .clear => .dClrR
  | .set => .dSetR

def Half.writePhase : Half → EngPhase
  | .clear => .dClrW
  | .set => .dSetW

/-- The word a half writes for the word it read. -/
def Half.wordOf : Half → Word → BitIndex → Word
  | .clear => clearBitIn
  | .set => setBitIn

/-- The value a half gives its bit. -/
def Half.value : Half → Bool
  | .clear => false
  | .set => true

theorem bitOf_wordOf (h : Half) (w : Word) (b j : BitIndex) :
    bitOf (h.wordOf w b) j = if j = b then h.value else bitOf w j := by
  cases h
  · exact bitOf_clearBitIn w b j
  · exact bitOf_setBitIn w b j

/-- The read of a half keeps the word answered (R106). -/
theorem engineStep_halfRead {s : State} (h : Half) (hp : s.engPhase = h.readPhase)
    (hm : isMapped s.cfg (targetWord s.cfg s.engAddr) = true) :
    engineStep s = { s with
      draws := s.draws.drop (drawsOf s.cfg s.engAddr), drawCount := s.drawCount + drawsOf s.cfg s.engAddr
      events := s.events ++ [.busR s.engAddr (answer s s.engAddr)]
      engTmp := answer s s.engAddr, engPhase := h.writePhase } := by
  cases h
  · simp only [engineStep, hp, Half.readPhase, phaseDClrR, busRead_answer hm]
    rfl
  · simp only [engineStep, hp, Half.readPhase, phaseDSetR, busRead_answer hm]
    rfl

/-- What follows the write of a half: the set half of a `WR` of 1, else completion (R106). -/
def afterHalfWrite (h : Half) (s : State) : State :=
  if h = .clear ∧ s.engOp = .wr ∧ s.engVal = true then { s with engPhase := .dSetR } else complete s

theorem afterHalfWrite_set (s : State) : afterHalfWrite .set s = complete s := if_neg fun h => nomatch h.1

/-- The write of a half writes back the word read with the bit changed (R106). -/
theorem engineStep_halfWrite {s : State} (h : Half) (hp : s.engPhase = h.writePhase)
    (hm : isMapped s.cfg (targetWord s.cfg s.engAddr) = true) :
    ∃ m, engineStep s = afterHalfWrite h { s with
        mem := m, events := s.events ++ [.busW s.engAddr (h.wordOf s.engTmp s.engBit)] }
      ∧ (s.mem.wf s.cfg = true → Memory.wf m s.cfg = true
          ∧ WordWritten s.engAddr (h.wordOf s.engTmp s.engBit) s { s with mem := m }) := by
  obtain ⟨t, ht, hframe, hwf⟩ := busWrite_written (v := h.wordOf s.engTmp s.engBit) hm
  refine ⟨t.mem, ?_, fun hmem => ?_⟩
  · rw [← hframe]
    have hop : t.engOp = s.engOp := by rw [hframe]
    have hval : t.engVal = s.engVal := by rw [hframe]
    cases h
    · simp only [Half.wordOf] at ht
      simp only [engineStep, hp, Half.writePhase, phaseDClrW, ht, afterHalfWrite, hop, hval, true_and]
    · simp only [Half.wordOf] at ht
      simp only [engineStep, hp, Half.writePhase, phaseDSetW, ht, afterHalfWrite, reduceCtorEq, false_and, if_false]
  · obtain ⟨hmw, hwritten⟩ := hwf hmem
    rw [hframe] at hmw hwritten
    exact ⟨hmw, hwritten⟩

end Sys2Proof.Machine
end

section
/-! PROOF. The client's bit operations as whole runs, from the accepting step to the response (`40_bit_access.md` R108 to
R115, `20_memory.md` R69, `70_reset_and_hazards.md` R233, R237). -/

namespace Sys2Proof.Machine

/-! ### Acceptance -/

/-- What a bit operation has the engine do (R108 to R111). -/
def engineRequest : Instr → Option (EngOp × Word × BitIndex × Bool)
  | .rdbit a b => some (.rd, a, b, false)
  | .setbit a b => some (.set, a, b, false)
  | .clrbit a b => some (.clr, a, b, false)
  | .wrbit a b v => some (.wr, a, b, v)
  | _ => none

theorem exec_of_engineRequest {i : Instr} {op : EngOp} {a : Word} {b : BitIndex} {v : Bool}
    (h : engineRequest i = some (op, a, b, v)) (s : State) :
    exec i s = .next (acceptBitOp (clientOpOf op) op a b v s) := by
  cases i <;> cases h <;> rfl

theorem wf_of_engineRequest {i : Instr} {x : EngOp × Word × BitIndex × Bool} (h : engineRequest i = some x) :
    i.wf = true := by
  cases i with
  | rdbit | setbit | clrbit | wrbit => rfl
  | initclk | getfreq | reservedOp110 | reservedOp111 => cases h

/-- The machine is at rest in STABLE with a bit operation on the port whose operands pass (R103, R104). -/
structure Presented (s : State) (i : Instr) (rest : List ReqWord) (op : EngOp) (a : Word) (b : BitIndex) (v : Bool) :
    Prop where
  wf : configWf s.cfg = true
  unmarked : Unmarked s
  atRest : AtRest s
  stable : s.seqState = 0x20#6
  reqs : s.reqs = encode i :: rest
  asks : engineRequest i = some (op, a, b, v)
  operands : OperandsPass s.cfg a b

theorem ReadyStable.presented {s : State} {i : Instr} {rest : List ReqWord} {op : EngOp} {a : Word} {b : BitIndex}
    {v : Bool} (h : ReadyStable s) (hreqs : s.reqs = encode i :: rest) (hasks : engineRequest i = some (op, a, b, v))
    (ho : OperandsPass s.cfg a b) : Presented s i rest op a b v := by
  obtain ⟨⟨hc, hm, -⟩, hrest, hs⟩ := h
  exact ⟨hc, hm, hrest, hs, hreqs, hasks, ho⟩

/-- The state after the step that accepts a bit operation (R105). -/
def issuedForClient (rest : List ReqWord) (op : EngOp) (a : Word) (b : BitIndex) (v : Bool) (s : State) : State :=
  issue .client op a b v { s with
    rsp := none, stimuli := s.stimuli.drop 1, reqs := rest, clientBusy := true, clientOp := some (clientOpOf op) }

section
variable {s : State} {i : Instr} {rest : List ReqWord} {op : EngOp} {a : Word} {b : BitIndex} {v : Bool} {k : Nat}

/-- The fields whose values rest in a quiet environment fixes, written out. -/
theorem Presented.eta (h : Presented s i rest op a b v) (hq : s.stimuli = []) :
    s = { s with engPhase := .idle, clientBusy := false, stimuli := [] } := by
  obtain ⟨hp, -, -, hb⟩ := h.atRest
  rw [← hp, ← hb, ← hq]

theorem Presented.aligned (h : Presented s i rest op a b v) : wordAligned a = true := beq_iff_eq.2 h.operands.1

/-- The accepting step issues the operation (R103, R105). -/
theorem Presented.step_eq (h : Presented s i rest op a b v) (hcalm : CalmFor (k + 1) s) :
    step s = .next (issuedForClient rest op a b v s) := by
  have hcon : blockConsistent (absorb s) = true := blockConsistent_of_rest (s := absorb s) h.atRest (.inr h.stable)
  have hreqs : (absorb s).reqs = encode i :: rest := by rw [absorb_of_calm hcalm]; exact h.reqs
  obtain ⟨hp, -, hd, hb⟩ := h.atRest
  have hready : reqReady (absorb s) = true := by
    simp [reqReady, reqValid, marked, h.reqs, hp, hd, hb, h.unmarked.1, h.unmarked.2]
  rw [step_eq_accept h.wf (resetRaised_of_calm hcalm) h.unmarked hcon (seqPhase_of_rest (.inr h.stable)) hready hreqs]
  simp only [accept, decodeOfEncodeIsTheOperation i (wf_of_engineRequest h.asks), h.reqs, List.tail_cons,
    exec_of_engineRequest h.asks, absorb_of_calm hcalm]
  rw [acceptBitOp_stable (s := { s with rsp := none, stimuli := s.stimuli.drop 1, reqs := rest }) h.stable h.operands]
  rfl

theorem Presented.inFlight (h : Presented s i rest op a b v) : InFlight (issuedForClient rest op a b v s) where
  wf := h.wf
  unmarked := h.unmarked
  mode := .client h.stable (issuePhase_ne_idle _ _ _) h.atRest.2.1 h.atRest.2.2.1 rfl rfl (issue_phaseFits ..)
  phase := issuePhase_ne_idle _ _ _

theorem issuedForClient_alias (hw : inWindow s.cfg a = true) (hop : op ≠ .rd) :
    issuedForClient rest op a b v s = { s with
      rsp := none, stimuli := s.stimuli.drop 1, reqs := rest, clientBusy := true, clientOp := some (clientOpOf op)
      engOwner := .client, engOp := op, engAddr := a, engBit := b, engVal := v, engAlias := aliasAddr s.cfg a b
      engWdata := issueWdata op v, engPhase := .aWrite } := by
  rw [issuedForClient, issue_alias (by exact hw), if_neg hop, if_neg hop]

theorem issuedForClient_direct (hw : inWindow s.cfg a = false) :
    issuedForClient rest op a b v s = { s with
      rsp := none, stimuli := s.stimuli.drop 1, reqs := rest, clientBusy := true, clientOp := some (clientOpOf op)
      engOwner := .client, engOp := op, engAddr := a, engBit := b, engVal := v, engPhase := directPhase op } := by
  rw [issuedForClient, issue_direct (by exact hw)]

end

/-! ### Reads -/

theorem issue_rd (o : Owner) (a : Word) (b : BitIndex) (v : Bool) (s : State) :
    issue o .rd a b v s = { s with
      engOwner := o, engOp := .rd, engAddr := a, engBit := b, engVal := v
      engAlias := if inWindow s.cfg a then aliasAddr s.cfg a b else s.engAlias
      engPhase := issuePhase s.cfg .rd a } := by
  simp [issue]

/-- `RDBIT` is one read at its bus address, on either path; it responds the bit (R108, R112). -/
theorem runSteps_rdbit {s : State} {a : Word} {b : BitIndex} {rest : List ReqWord} {A : Word} {n : Nat} {v : Bool}
    (h : Presented s (.rdbit a b) rest .rd a b false) (hq : s.stimuli = []) (hr : EngineReaches s.cfg a)
    (hm : inWindow s.cfg a = true → isMapped s.cfg a = true) (hA : A = busAddress s.cfg a b)
    (hn : n = drawsOf s.cfg A) (hv : v = engineBit s a b) :
    runSteps 2 s = .next { s with
      reqs := rest, clientOp := some .rdbit
      engOwner := .client, engOp := .rd, engAddr := a, engBit := b, engVal := false
      engAlias := if inWindow s.cfg a then aliasAddr s.cfg a b else s.engAlias, engResult := v
      draws := s.draws.drop n, drawCount := s.drawCount + n
      rsp := some (if v then 1 else 0)
      events := s.events ++ [.busR A (answer s A), .resp (if v then 1 else 0)] } := by
  subst hA hn hv
  have hcalm : CalmFor 1 (issuedForClient rest .rd a b false s) := calmFor_of_quiet (by simp [issuedForClient, hq]) 1
  have hfl := h.inFlight
  have hf := phaseFits_of_mode hfl.mode
  have hread := engineStep_read (s := absorb (issuedForClient rest .rd a b false s)) hfl.wf hf rfl hfl.phase h.aligned
    hr hm rfl
  have hend : (s.stimuli.drop 1).drop 1 = [] := by simp [hq]
  rw [runSteps_succ (h.step_eq (calmFor_of_quiet hq 1)), runSteps_succ (hfl.step_eq (resetRaised_of_calm hcalm)), hread,
    complete_of_client rfl, absorb_of_calm hcalm, issuedForClient, issue_rd]
  conv_rhs => rw [h.eta hq]
  simp only [hend, List.append_assoc]
  rfl

theorem drawsOf_drawn {c : Config} {a : Word} (h : inAliasWindow c a = true ∨ isVolatile c a = true) :
    drawsOf c a = 1 := if_pos h

/-- Settles O25: the read of the alias word, whose answer's bit 0 is the bit (R102, R115). -/
theorem rdbitAliasPathRun : Obligations.RdbitAliasPathRun := by
  intro s a b rest hs hreqs ho ⟨hw, hm, hd⟩
  have hpres := hs.presented hreqs rfl ho
  have ha := hpres.aligned
  have hr : EngineReaches s.cfg a := .inl ⟨hw, hd⟩
  have hbus : busAddress s.cfg a b = aliasAddr s.cfg a b := if_pos hw
  have hbit := engineBit_eq b hpres.wf ha hr
  rw [if_pos hw, hbus] at hbit
  refine ⟨answer s (aliasAddr s.cfg a b), engineBit s a b, hbit.symm, if_pos hw, ?_⟩
  rw [runSteps_rdbit hpres hs.1.2.2 hr (fun _ => hm) hbus.symm
    (drawsOf_drawn (.inl (inAliasWindow_aliasAddr b hpres.wf ⟨hw, ha⟩))).symm rfl, if_pos hw, List.drop_one]

/-- `RDBIT` on the direct path reads the word itself and responds bit `b` of the answer (R108, R114). -/
theorem runSteps_rdbit_direct {s : State} {a : Word} {b : BitIndex} {rest : List ReqWord}
    (h : Presented s (.rdbit a b) rest .rd a b false) (hq : s.stimuli = []) (hd : OnDirectPath s.cfg a) :
    runSteps 2 s = .next { s with
      reqs := rest, clientOp := some .rdbit
      engOwner := .client, engOp := .rd, engAddr := a, engBit := b, engVal := false
      engResult := (answer s a).getLsbD b.toNat
      draws := s.draws.drop (drawsOf s.cfg a), drawCount := s.drawCount + drawsOf s.cfg a
      rsp := some (if (answer s a).getLsbD b.toNat then 1 else 0)
      events := s.events ++ [.busR a (answer s a), .resp (if (answer s a).getLsbD b.toNat then 1 else 0)] } := by
  have hw : ¬ inWindow s.cfg a = true := by simp [hd.1]
  rw [runSteps_rdbit h hq (.inr hd) (fun h => absurd h hw) (if_neg hw).symm rfl (if_neg hw).symm, if_neg hw]

/-- Settles O26: a plain word's answer is memory's word and takes no draw. -/
theorem rdbitDirectPathRun : Obligations.RdbitDirectPathRun := by
  intro s a b rest hs hreqs ho hd hplain
  rw [runSteps_rdbit_direct (hs.presented hreqs rfl ho) hs.1.2.2 hd, drawsOf_plain hplain, answer_plain hplain]
  rfl

/-- Settles O27: a drawn answer takes one draw. -/
theorem rdbitDrawnDirectRun : Obligations.RdbitDrawnDirectRun := by
  intro s a b rest hs hreqs ho hd hdrawn
  rw [runSteps_rdbit_direct (hs.presented hreqs rfl ho) hs.1.2.2 hd, drawsOf_drawn hdrawn, List.drop_one]

/-! ### Writes on the alias path -/

theorem completionWord_of_write {s : State} (h : s.engOp ≠ .rd) : completionWord s = 0 := if_neg h

theorem bitWord_bit (v : Bool) : (bitWord v).getLsbD 0 = v := by cases v <;> rfl

/-- A bit write on the alias path is one write of its alias word, and changes that bit alone (R109 to R112). -/
theorem runSteps_aliasWrite {s : State} {i : Instr} {op : EngOp} {a : Word} {b : BitIndex} {ev v : Bool}
    {rest : List ReqWord} (h : Presented s i rest op a b ev) (hop : op ≠ .rd) (hv : issueWdata op ev = bitWord v)
    (hq : s.stimuli = []) (hpath : OnAliasPath s.cfg a) :
    ∃ t, runSteps 2 s = .next t
      ∧ t = { s with
          reqs := rest, clientOp := some (clientOpOf op)
          engOwner := .client, engOp := op, engAddr := a, engBit := b, engVal := ev
          engAlias := aliasAddr s.cfg a b, engWdata := if v then 1 else 0
          rsp := some 0
          events := s.events ++ [.busW (aliasAddr s.cfg a b) (if v then 1 else 0), .resp 0]
          mem := t.mem }
      ∧ (s.mem.wf s.cfg = true → Memory.wf t.mem s.cfg = true ∧ OneBitChanged a b v s t) := by
  obtain ⟨hw, hm, hd⟩ := hpath
  have hcalm : CalmFor 1 (issuedForClient rest op a b ev s) := calmFor_of_quiet (by simp [issuedForClient, hq]) 1
  have hfl := h.inFlight
  have hf := phaseFits_of_mode hfl.mode
  have hissued : absorb (issuedForClient rest op a b ev s) = { s with
      rsp := none, stimuli := [], reqs := rest, clientBusy := true, clientOp := some (clientOpOf op)
      engOwner := .client, engOp := op, engAddr := a, engBit := b, engVal := ev
      engAlias := aliasAddr s.cfg a b, engWdata := bitWord v, engPhase := .aWrite } := by
    rw [absorb_of_calm hcalm, issuedForClient_alias hw hop, hv]
    simp only [hq, List.drop_nil]
  have hphase : (absorb (issuedForClient rest op a b ev s)).engPhase = .aWrite := by rw [hissued]
  obtain ⟨m, hwrite, hwf⟩ := engineStep_aliasWrite (s := absorb (issuedForClient rest op a b ev s)) hfl.wf hf hphase
    h.aligned hm hd
  rw [hissued] at hwf
  refine ⟨{ s with
      engPhase := .idle, clientBusy := false, stimuli := [], reqs := rest, clientOp := some (clientOpOf op)
      engOwner := .client, engOp := op, engAddr := a, engBit := b, engVal := ev
      engAlias := aliasAddr s.cfg a b, engWdata := bitWord v, rsp := some 0
      events := s.events ++ [.busW (aliasAddr s.cfg a b) (bitWord v), .resp 0], mem := m }, ?_, ?_, fun hmem => ?_⟩
  · rw [runSteps_succ (h.step_eq (calmFor_of_quiet hq 1)), runSteps_succ (hfl.step_eq (resetRaised_of_calm hcalm)),
      hwrite, complete_of_client rfl, completionWord_of_write hop, hissued]
    simp only [List.append_assoc]
    rfl
  · conv_rhs => rw [h.eta hq]
    rfl
  · obtain ⟨hmw, hbit⟩ := hwf hmem
    rw [bitWord_bit] at hbit
    exact ⟨hmw, hbit⟩

/-- Settles O28: the three operations write 1, 0 and the value. -/
theorem bitWritesAliasPathRun : Obligations.BitWritesAliasPathRun := by
  intro s a b v rest i eop ev hi hs hmem hreqs ho hpath
  simp only [List.mem_cons, Prod.mk.injEq, List.not_mem_nil, or_false] at hi
  have hasks : engineRequest i = some (eop, a, b, ev) ∧ eop ≠ .rd ∧ issueWdata eop ev = bitWord v := by
    rcases hi with ⟨rfl, rfl, rfl, rfl⟩ | ⟨rfl, rfl, rfl, rfl⟩ | ⟨rfl, rfl, rfl, -⟩ <;> exact ⟨rfl, nofun, rfl⟩
  obtain ⟨t, hrun, ht, hwf⟩ := runSteps_aliasWrite (hs.presented hreqs hasks.1 ho) hasks.2.1 hasks.2.2 hs.1.2.2 hpath
  exact ⟨t, hrun, ht, (hwf hmem).2⟩

/-! ### The halves of a write on the direct path, step by step -/

/-- After a step that keeps an operation in flight, it is in flight. -/
theorem InFlight.next {s t : State} (h : InFlight s) (hr : resetRaised s = false) (hstep : step s = .next t)
    (hm : Unmarked t) (hp : t.engPhase ≠ .idle) : InFlight t where
  wf := by rw [noStepWritesTheConfiguration s t hstep]; exact h.wf
  unmarked := hm
  mode := (step_outcome hr hstep).mode (s := absorb s) (h.mode.of_eq rfl)
  phase := hp

/-- The state after the read of a half. -/
def halfRead (h : Half) (s : State) : State :=
  { s with
    rsp := none, stimuli := s.stimuli.drop 1
    draws := s.draws.drop (drawsOf s.cfg s.engAddr), drawCount := s.drawCount + drawsOf s.cfg s.engAddr
    events := s.events ++ [.busR s.engAddr (answer s s.engAddr)]
    engTmp := answer s s.engAddr, engPhase := h.writePhase }

theorem step_halfRead {s : State} {k : Nat} (h : Half) (hfl : InFlight s) (hcalm : CalmFor (k + 1) s)
    (hp : s.engPhase = h.readPhase) (hm : isMapped s.cfg (targetWord s.cfg s.engAddr) = true) :
    step s = .next (halfRead h s) := by
  rw [hfl.step_eq (resetRaised_of_calm hcalm), absorb_of_calm hcalm]
  exact congrArg _ (engineStep_halfRead h hp hm)

/-- The state after a half's write left memory as `m`, before the half is followed by the next or by completion. -/
def halfWritten (h : Half) (m : Memory) (s : State) : State :=
  { s with mem := m, events := s.events ++ [.busW s.engAddr (h.wordOf s.engTmp s.engBit)] }

theorem step_halfWrite {s : State} (h : Half) (hfl : InFlight s) (hr : resetRaised s = false)
    (hp : s.engPhase = h.writePhase) (hm : isMapped s.cfg (targetWord s.cfg s.engAddr) = true) :
    ∃ m, step s = .next (afterHalfWrite h (halfWritten h m (absorb s)))
      ∧ ((absorb s).mem.wf s.cfg = true → Memory.wf m s.cfg = true
          ∧ WordWritten s.engAddr (h.wordOf s.engTmp s.engBit) (absorb s) { absorb s with mem := m }) := by
  rw [hfl.step_eq hr]
  obtain ⟨m, hwrite, hwf⟩ := engineStep_halfWrite (s := absorb s) h hp hm
  exact ⟨m, congrArg _ hwrite, hwf⟩

theorem writePhase_ne_idle (h : Half) : h.writePhase ≠ .idle := by cases h <;> nofun

/-- A half in two calm steps: the read of the word, the write of the word read with the bit changed (R106). -/
theorem runSteps_half {s : State} {k : Nat} (h : Half) (hfl : InFlight s) (hcalm : CalmFor (k + 2) s)
    (hp : s.engPhase = h.readPhase) (hm : isMapped s.cfg (targetWord s.cfg s.engAddr) = true) :
    ∃ m, runSteps 2 s = .next (afterHalfWrite h (halfWritten h m
        { halfRead h s with stimuli := s.stimuli.drop 2 }))
      ∧ (s.mem.wf s.cfg = true → Memory.wf m s.cfg = true
          ∧ WordWritten s.engAddr (h.wordOf (answer s s.engAddr) s.engBit) s { s with mem := m }) := by
  have hread := step_halfRead h hfl hcalm hp hm
  have hcalm' : CalmFor (k + 1) (halfRead h s) := hcalm.tail rfl
  have hfl' := hfl.next (resetRaised_of_calm hcalm) hread hfl.unmarked (writePhase_ne_idle h)
  obtain ⟨m, hwrite, hwf⟩ := step_halfWrite (s := halfRead h s) h hfl' (resetRaised_of_calm hcalm') rfl hm
  rw [absorb_of_calm hcalm'] at hwrite hwf
  refine ⟨m, ?_, hwf⟩
  rw [runSteps_succ hread, runSteps_succ hwrite]
  have hdrop : (s.stimuli.drop 1).drop 1 = s.stimuli.drop 2 := by simp
  simp only [halfRead, hdrop]
  rfl

/-! ### The client's direct writes -/

/-- The state after the write of the first half of a client's direct operation left memory as `m`. -/
def clientHalf (h : Half) (rest : List ReqWord) (op : EngOp) (a : Word) (b : BitIndex) (v : Bool) (m : Memory)
    (s : State) : State :=
  { s with
    rsp := none, stimuli := s.stimuli.drop 3, reqs := rest, clientBusy := true, clientOp := some (clientOpOf op)
    engPhase := h.writePhase, engOwner := .client, engOp := op, engAddr := a, engBit := b, engVal := v
    engTmp := answer s a
    draws := s.draws.drop (drawsOf s.cfg a), drawCount := s.drawCount + drawsOf s.cfg a
    events := s.events ++ [.busR a (answer s a), .busW a (h.wordOf (answer s a) b)], mem := m }

/-- Acceptance and the first half of a direct write, in three calm steps (R105, R106). -/
theorem runSteps_clientHalf {s : State} {i : Instr} {rest : List ReqWord} {op : EngOp} {a : Word} {b : BitIndex}
    {v : Bool} {k : Nat} (h : Half) (hpres : Presented s i rest op a b v) (hd : OnDirectPath s.cfg a)
    (hcalm : CalmFor (k + 3) s) (hphase : directPhase op = h.readPhase) :
    ∃ m, runSteps 3 s = .next (afterHalfWrite h (clientHalf h rest op a b v m s))
      ∧ (s.mem.wf s.cfg = true → Memory.wf m s.cfg = true
          ∧ WordWritten a (h.wordOf (answer s a) b) s { s with mem := m }) := by
  have hfl := hpres.inFlight
  have hshape := issuedForClient_direct (s := s) (rest := rest) (op := op) (b := b) (v := v) hd.1
  have hp : (issuedForClient rest op a b v s).engPhase = h.readPhase := by rw [hshape]; exact hphase
  have hcalm' : CalmFor (k + 2) (issuedForClient rest op a b v s) := hcalm.tail rfl
  obtain ⟨m, hrun, hwf⟩ := runSteps_half h hfl hcalm' hp hd.2
  refine ⟨m, ?_, hwf⟩
  have hdrop : (s.stimuli.drop 1).drop 2 = s.stimuli.drop 3 := by simp
  rw [runSteps_succ (hpres.step_eq hcalm), hrun, hshape]
  simp only [halfRead, halfWritten, clientHalf, hdrop, List.append_assoc]
  rfl

/-- Of a plain word the write of a half changes the half's bit alone (R106). -/
theorem WordWritten.half {s t : State} {a : Word} {b : BitIndex} (h : Half)
    (hw : WordWritten a (h.wordOf (answer s a) b) s t) (hplain : PlainWord s.cfg a) :
    answer s a = memWord s a ∧ OneBitChanged a b h.value s t := by
  refine ⟨answer_plain hplain, hw.oneBit hplain.1 fun j => ?_⟩
  rw [bitOf_wordOf, answer_plain hplain]

/-- A direct write of one half reads the word, writes it back with the bit changed, and responds 0 (R109 to R112). -/
theorem runSteps_directWrite {s : State} {i : Instr} {rest : List ReqWord} {op : EngOp} {a : Word} {b : BitIndex}
    {v : Bool} (h : Half) (hpres : Presented s i rest op a b v) (hq : s.stimuli = []) (hmem : s.mem.wf s.cfg = true)
    (hd : OnDirectPath s.cfg a) (hphase : directPhase op = h.readPhase) (hop : op ≠ .rd)
    (hlast : ¬ (h = .clear ∧ op = .wr ∧ v = true)) :
    ∃ t, runSteps 3 s = .next t
      ∧ t = { s with
          reqs := rest, clientOp := some (clientOpOf op)
          engOwner := .client, engOp := op, engAddr := a, engBit := b, engVal := v
          engTmp := answer s a
          draws := s.draws.drop (drawsOf s.cfg a), drawCount := s.drawCount + drawsOf s.cfg a
          rsp := some 0
          events := s.events ++ [.busR a (answer s a), .busW a (h.wordOf (answer s a) b), .resp 0]
          mem := t.mem }
      ∧ WordWritten a (h.wordOf (answer s a) b) s t
      ∧ (PlainWord s.cfg a → answer s a = memWord s a ∧ OneBitChanged a b h.value s t) := by
  obtain ⟨m, hrun, hwf⟩ := runSteps_clientHalf h hpres hd (calmFor_of_quiet hq 3) hphase
  have hwritten := (hwf hmem).2
  have hdone : afterHalfWrite h (clientHalf h rest op a b v m s) = { s with
      engPhase := .idle, clientBusy := false, stimuli := [], reqs := rest, clientOp := some (clientOpOf op)
      engOwner := .client, engOp := op, engAddr := a, engBit := b, engVal := v
      engTmp := answer s a
      draws := s.draws.drop (drawsOf s.cfg a), drawCount := s.drawCount + drawsOf s.cfg a
      rsp := some 0
      events := s.events ++ [.busR a (answer s a), .busW a (h.wordOf (answer s a) b), .resp 0]
      mem := m } := by
    rw [afterHalfWrite, if_neg (by exact hlast), complete_of_client rfl, completionWord_of_write hop]
    simp only [clientHalf, hq, List.drop_nil, List.append_assoc]
    rfl
  rw [hdone] at hrun
  refine ⟨_, hrun, ?_, hwritten, hwritten.half h⟩
  conv_rhs => rw [hpres.eta hq]
  rfl

/-- Settles O29: the set half. -/
theorem setbitDirectPathRun : Obligations.SetbitDirectPathRun := by
  intro s a b rest hs hmem hreqs ho hd
  exact runSteps_directWrite .set (hs.presented hreqs rfl ho) hs.1.2.2 hmem hd rfl nofun nofun

/-- Settles O30: the clear half. -/
theorem clrbitDirectPathRun : Obligations.ClrbitDirectPathRun := by
  intro s a b rest hs hmem hreqs ho hd
  exact runSteps_directWrite .clear (hs.presented hreqs rfl ho) hs.1.2.2 hmem hd rfl nofun nofun

/-- Settles O31: the clear half, after which a `WR` of 0 is complete. -/
theorem wrbitZeroDirectPathRun : Obligations.WrbitZeroDirectPathRun := by
  intro s a b rest hs hmem hreqs ho hd
  exact runSteps_directWrite .clear (hs.presented hreqs rfl ho) hs.1.2.2 hmem hd rfl nofun nofun

/-- Between the halves of a direct `WRBIT` of 1: the clear half written, the set half to come (R111). -/
def betweenHalves (rest : List ReqWord) (a : Word) (b : BitIndex) (m : Memory) (s : State) : State :=
  { clientHalf .clear rest .wr a b true m s with engPhase := .dSetR }

/-- The clear half of a direct `WRBIT` of 1, in three calm steps (R111). -/
theorem runSteps_betweenHalves {s : State} {rest : List ReqWord} {a : Word} {b : BitIndex} {k : Nat}
    (h : Presented s (.wrbit a b true) rest .wr a b true) (hd : OnDirectPath s.cfg a) (hcalm : CalmFor (k + 3) s) :
    ∃ m, runSteps 3 s = .next (betweenHalves rest a b m s)
      ∧ (s.mem.wf s.cfg = true → Memory.wf m s.cfg = true
          ∧ WordWritten a (clearBitIn (answer s a) b) s { s with mem := m }) := by
  obtain ⟨m, hrun, hwf⟩ := runSteps_clientHalf .clear h hd hcalm rfl
  exact ⟨m, hrun, hwf⟩

theorem inFlight_betweenHalves {s : State} {rest : List ReqWord} {a : Word} {b : BitIndex}
    (h : Presented s (.wrbit a b true) rest .wr a b true) (hd : OnDirectPath s.cfg a) (m : Memory) :
    InFlight (betweenHalves rest a b m s) where
  wf := h.wf
  unmarked := h.unmarked
  mode := .client h.stable nofun h.atRest.2.1 h.atRest.2.2.1 rfl rfl
    (by simp [betweenHalves, clientHalf, phaseFits, hd.1])
  phase := nofun

/-- Of a plain word the set half after the clear half leaves the bit 1 and the others as they were (R111). -/
theorem OneBitChanged.trans {s t u : State} {a : Word} {b : BitIndex} {v w : Bool} (h : OneBitChanged a b v s t)
    (h' : OneBitChanged a b w t u) : OneBitChanged a b w s u := by
  refine ⟨fun j => ?_, h.2.trans h'.2⟩
  rw [h'.1, h.1]
  split <;> rfl

theorem memWord_of_written {s t : State} {a v : Word} (h : WordWritten a v s t) (hw : inAliasWindow s.cfg a = false) :
    memWord t a = v := by
  simp only [WordWritten, hw, Bool.false_eq_true, if_false] at h
  exact h.1

/-- Settles O32: the clear half, then the set half from the state it leaves. -/
theorem wrbitOneDirectPathRun : Obligations.WrbitOneDirectPathRun := by
  intro s a b rest hs hmem hreqs ho hd
  have hq := hs.1.2.2
  have hpres := hs.presented (i := .wrbit a b true) hreqs rfl ho
  obtain ⟨m, hrun, hwf⟩ := runSteps_betweenHalves hpres hd (calmFor_of_quiet hq 3)
  obtain ⟨hmw, hclear⟩ := hwf hmem
  have hfl := inFlight_betweenHalves (rest := rest) hpres hd m
  have hq' : (betweenHalves rest a b m s).stimuli = [] := by simp [betweenHalves, clientHalf, hq]
  obtain ⟨m', hrun', hwf'⟩ := runSteps_half .set hfl (calmFor_of_quiet hq' 2) rfl hd.2
  obtain ⟨-, hset⟩ := hwf' hmw
  have hdone : afterHalfWrite .set (halfWritten .set m' { halfRead .set (betweenHalves rest a b m s) with
      stimuli := (betweenHalves rest a b m s).stimuli.drop 2 }) = { betweenHalves rest a b m s with
        clientBusy := false, engPhase := .idle, engTmp := answer (betweenHalves rest a b m s) a
        draws := (betweenHalves rest a b m s).draws.drop (drawsOf s.cfg a)
        drawCount := (betweenHalves rest a b m s).drawCount + drawsOf s.cfg a
        rsp := some 0
        events := (betweenHalves rest a b m s).events ++ [.busR a (answer (betweenHalves rest a b m s) a),
          .busW a (answer (betweenHalves rest a b m s) a ||| 1#32 <<< b.toNat), .resp 0]
        mem := m' } := by
    rw [afterHalfWrite_set, complete_of_client rfl,
      completionWord_of_write (show EngOp.wr ≠ .rd from nofun)]
    simp only [halfWritten, halfRead, hq', List.drop_nil, List.append_assoc]
    rfl
  rw [hdone] at hrun'
  refine ⟨betweenHalves rest a b m s, _, hrun, (runSteps_add hrun 2).trans hrun', ?_, hclear, rfl, hset, fun hplain => ?_⟩
  · simp only [betweenHalves, clientHalf, hq, List.drop_nil]
    rw [← hq]
    rfl
  · obtain ⟨hans, hbit⟩ := hclear.half .clear hplain
    have hset' := hset.half .set (a := a) (b := b) hplain
    refine ⟨hans, hset'.1.trans ((memWord_of_written hclear hplain.1).trans ?_), hbit, hbit.trans hset'.2⟩
    rw [← hans]
    rfl


/-! ### A write, then a read -/

/-- A write of a plain word's bit is done: the bit has the value, and the machine is ready for the next request. -/
structure BitWritten (a : Word) (b : BitIndex) (v : Bool) (rest : List ReqWord) (s t : State) : Prop where
  ready : ReadyStable t
  cfg : t.cfg = s.cfg
  reqs : t.reqs = rest
  clock : t.clockHz = s.clockHz
  bit : OneBitChanged a b v s t

theorem engineRequest_of_writeTarget {i : Instr} {a : Word} {b : BitIndex} {v : Bool}
    (h : writeTarget i = some (a, b, v)) :
    ∃ op ev, engineRequest i = some (op, a, b, ev) ∧ op ≠ .rd ∧ issueWdata op ev = bitWord v := by
  cases i with
  | setbit a b => cases h; exact ⟨.set, false, rfl, nofun, rfl⟩
  | clrbit a b => cases h; exact ⟨.clr, false, rfl, nofun, rfl⟩
  | wrbit a b v => cases h; exact ⟨.wr, v, rfl, nofun, rfl⟩
  | rdbit | initclk | getfreq | reservedOp110 | reservedOp111 => cases h

theorem writeSteps_alias {c : Config} {i : Instr} {a : Word} {b : BitIndex} {v : Bool}
    (h : writeTarget i = some (a, b, v)) (hw : inWindow c a = true) : writeSteps c i = 2 := by
  simp only [writeSteps, h, hw, if_true]

/-- A write of a plain word's bit on the direct path, by the runs of its three operations (R109 to R111). -/
theorem runSteps_directBit {s : State} {i : Instr} {a : Word} {b : BitIndex} {v : Bool} {rest : List ReqWord}
    (hi : writeTarget i = some (a, b, v)) (hs : ReadyStable s) (hmem : s.mem.wf s.cfg = true)
    (hreqs : s.reqs = encode i :: rest) (ho : OperandsPass s.cfg a b) (hd : OnDirectPath s.cfg a)
    (hplain : PlainWord s.cfg a) :
    ∃ t, runSteps (writeSteps s.cfg i) s = .next t ∧ BitWritten a b v rest s t := by
  have hw : ¬ inWindow s.cfg a = true := by simp [hd.1]
  cases i with
  | setbit a' b' =>
    cases hi
    obtain ⟨t, hrun, ht, -, hbit⟩ := setbitDirectPathRun s a b rest hs hmem hreqs ho hd
    refine ⟨t, ?_, by rw [ht]; exact hs, by rw [ht], by rw [ht], by rw [ht], (hbit hplain).2⟩
    simpa only [writeSteps, writeTarget, if_neg hw] using hrun
  | clrbit a' b' =>
    cases hi
    obtain ⟨t, hrun, ht, -, hbit⟩ := clrbitDirectPathRun s a b rest hs hmem hreqs ho hd
    refine ⟨t, ?_, by rw [ht]; exact hs, by rw [ht], by rw [ht], by rw [ht], (hbit hplain).2⟩
    simpa only [writeSteps, writeTarget, if_neg hw] using hrun
  | wrbit a' b' v' =>
    cases hi
    cases v with
    | false =>
      obtain ⟨t, hrun, ht, -, hbit⟩ := wrbitZeroDirectPathRun s a b rest hs hmem hreqs ho hd
      refine ⟨t, ?_, by rw [ht]; exact hs, by rw [ht], by rw [ht], by rw [ht], (hbit hplain).2⟩
      simpa only [writeSteps, writeTarget, if_neg hw, Bool.false_eq_true, if_false] using hrun
    | true =>
      obtain ⟨u, t, -, hrun, hu, -, ht, -, hbit⟩ := wrbitOneDirectPathRun s a b rest hs hmem hreqs ho hd
      obtain ⟨-, -, -, hbit⟩ := hbit hplain
      obtain ⟨hundisturbed, ⟨-, hissued, hdone, -⟩, hstable⟩ := hs
      have hready : ReadyStable t := by
        rw [ht, hu]
        exact ⟨hundisturbed, ⟨rfl, hissued, hdone, rfl⟩, hstable⟩
      refine ⟨t, ?_, hready, by rw [ht, hu], by rw [ht, hu], by rw [ht, hu], hbit⟩
      simpa only [writeSteps, writeTarget, if_neg hw, if_true] using hrun
  | rdbit | initclk | getfreq | reservedOp110 | reservedOp111 => cases hi

/-- A write of a plain word's bit on either path (R113). -/
theorem runSteps_writeBit {s : State} {i : Instr} {a : Word} {b : BitIndex} {v : Bool} {rest : List ReqWord}
    (hi : writeTarget i = some (a, b, v)) (hs : ReadyStable s) (hmem : s.mem.wf s.cfg = true)
    (hreqs : s.reqs = encode i :: rest) (ho : OperandsPass s.cfg a b)
    (hpath : OnAliasPath s.cfg a ∨ OnDirectPath s.cfg a) (hplain : PlainWord s.cfg a) :
    ∃ t, runSteps (writeSteps s.cfg i) s = .next t ∧ BitWritten a b v rest s t := by
  rcases hpath with halias | hd
  · obtain ⟨op, ev, hasks, hop, hv⟩ := engineRequest_of_writeTarget hi
    obtain ⟨t, hrun, ht, hwf⟩ := runSteps_aliasWrite (hs.presented hreqs hasks ho) hop hv hs.1.2.2 halias
    rw [writeSteps_alias hi halias.1]
    exact ⟨t, hrun, by rw [ht]; exact hs, by rw [ht], by rw [ht], by rw [ht], (hwf hmem).2⟩
  · exact runSteps_directBit hi hs hmem hreqs ho hd hplain

/-- Of a plain word the engine's read returns the bit in memory, on either path (R106, R108). -/
theorem engineBit_plain {s : State} {a : Word} (b : BitIndex) (h : PlainWord s.cfg a) :
    engineBit s a b = bitOf (memWord s a) b := by
  simp only [engineBit, bitOf, answer_plain h, h.2, Bool.false_eq_true, if_false, ite_self]

/-- Settles O33: after the write the bit in memory is the value written, and `RDBIT` reads memory. -/
theorem bitWriteThenReadReturnsIt : Obligations.BitWriteThenReadReturnsIt := by
  intro s i a b v rest hi hs hmem hreqs ho hpath hplain
  obtain ⟨t, hrun, ht⟩ := runSteps_writeBit hi hs hmem hreqs ho hpath hplain
  have hpres := ht.ready.presented (i := .rdbit a b) ht.reqs rfl (ht.cfg ▸ ho)
  have hreach : EngineReaches t.cfg a := by
    rw [ht.cfg]
    exact hpath.imp (fun h => ⟨h.1, h.2.2⟩) id
  have hmap : inWindow t.cfg a = true → isMapped t.cfg a = true := by
    rw [ht.cfg]
    rintro hw
    rcases hpath with h | h
    · exact h.2.1
    · simp [h.1] at hw
  have hv : v = engineBit t a b := by
    rw [engineBit_plain b (ht.cfg ▸ hplain), ht.bit.1 b, if_pos rfl]
  have hread := runSteps_rdbit hpres ht.ready.1.2.2 hreach hmap rfl rfl hv
  refine ⟨_, (runSteps_add hrun 2).trans hread, rfl, ht.bit, rfl, ht.ready.1.2.1, ht.ready.2.1, ?_, ht.clock⟩
  exact ht.ready.2.2.trans hs.2.2.symm

/-! ### What happens between the transactions of a direct write -/

/-- What the environment writes to the word at `a` changes no byte outside it (R63). -/
theorem readByte_envWrite_outside (c : Config) (m : Memory) {a x : Word} {y : Nat} (h : OutsideWord a y) :
    readByte c (envWrite c m (a, x)) y = readByte c m y := by
  unfold envWrite
  split
  · exact readByte_writeWord_other m a x h.1 h.2.1 h.2.2.1 h.2.2.2
  · rfl

/-- Settles O35: the write is of the word read two steps before, whatever memory holds by then. -/
theorem directWriteLosesTheOtherUpdate : Obligations.DirectWriteLosesTheOtherUpdate := by
  intro s a b x rest hc hu hrest hst hmem hstim _ hreqs ho hd hplain
  have hpres : Presented s (.setbit a b) rest .set a b false := ⟨hc, hu, hrest, hst, hreqs, rfl, ho⟩
  have hcalm : CalmFor 2 s := by simp [CalmFor, hstim]
  have hfl := hpres.inFlight
  have hcalm' : CalmFor 1 (issuedForClient rest .set a b false s) := hcalm.tail rfl
  have hshape := issuedForClient_direct (s := s) (rest := rest) (op := .set) (b := b) (v := false) hd.1
  have hp : (issuedForClient rest .set a b false s).engPhase = Half.set.readPhase := by rw [hshape]; rfl
  have hread := step_halfRead .set hfl hcalm' hp hd.2
  have hfl' := hfl.next (resetRaised_of_calm hcalm') hread hfl.unmarked (writePhase_ne_idle .set)
  have hstim' : (halfRead .set (issuedForClient rest .set a b false s)).stimuli = [{ writes := [(a, x)] }] := by
    simp [halfRead, issuedForClient, hstim]
  have hr : resetRaised (halfRead .set (issuedForClient rest .set a b false s)) = false := by
    simp [resetRaised, stimulus, hstim']
  obtain ⟨m, hwrite, hwf⟩ := step_halfWrite .set hfl' hr rfl hd.2
  obtain ⟨-, hwritten⟩ := hwf (absorb_memory_wf hmem)
  have hmem' : (absorb (halfRead .set (issuedForClient rest .set a b false s))).mem = envWrite s.cfg s.mem (a, x) := by
    rw [absorb_mem, stimulus, hstim']
    rfl
  have hout : SameOutside a s { absorb (halfRead .set (issuedForClient rest .set a b false s)) with mem := m } := by
    rw [WordWritten, if_neg (by exact Bool.eq_false_iff.1 hplain)] at hwritten
    intro y hy
    exact (hwritten.2 y hy).trans ((congrArg (readByte s.cfg · y) hmem').trans
      (readByte_envWrite_outside s.cfg s.mem hy))
  rw [afterHalfWrite_set, complete_of_client rfl] at hwrite
  have hrun := (runSteps_succ (hpres.step_eq hcalm) 2).trans ((runSteps_succ hread 1).trans (runSteps_succ hwrite 0))
  exact ⟨_, hrun, memWord_of_written hwritten hplain, answer_plain, hout⟩

/-- Settles O54: the reset step keeps memory as the clear half wrote it. -/
theorem resetBetweenHalvesLeavesTheBitClear : Obligations.ResetBetweenHalvesLeavesTheBitClear := by
  intro s a b rest hc hu hrest hst hmem hstim hreqs ho hd
  have hpres : Presented s (.wrbit a b true) rest .wr a b true := ⟨hc, hu, hrest, hst, hreqs, rfl, ho⟩
  have hcalm : CalmFor 3 s := by simp [CalmFor, hstim]
  obtain ⟨m, hrun, hwf⟩ := runSteps_betweenHalves hpres hd hcalm
  obtain ⟨-, hwritten⟩ := hwf hmem
  have hstim' : stimulus (betweenHalves rest a b m s) = { rst := true } := by
    simp [stimulus, betweenHalves, clientHalf, hstim]
  have hreset := step_of_reset (s := betweenHalves rest a b m s) hc (by rw [resetRaised, hstim'])
  have hmem' : (absorb (betweenHalves rest a b m s)).mem = m := by rw [absorb_mem, hstim']; rfl
  have hlast : WordWritten a (clearBitIn (answer s a) b) s (blockReset (absorb (betweenHalves rest a b m s))) := by
    rw [← hmem'] at hwritten
    exact hwritten
  exact ⟨_, (runSteps_add hrun 1).trans (runSteps_succ hreset 0), hlast, hlast.half .clear, rfl, rfl, rfl, rfl, rfl⟩

end Sys2Proof.Machine
end

section
/-! PROOF. The runs of the bring-up: the word writes, the power-up states, the polls, the handshakes, and the whole of
`INITCLK` under the defaults (`41_clock_sequencer.md` R141 to R167). -/

namespace Sys2Proof.Machine

/-! ### One state of the sequencer -/

theorem enter_of_ne_stable {q : SeqState} (h : q ≠ .stable) (s : State) : enter q s = { s with seqState := seqCode q } := by
  rcases enter_cases q s with ⟨hq, -⟩ | ⟨-, he⟩
  · exact absurd hq h
  · exact he

theorem seqStep_word {s : State} {q : SeqState} {a v : Word} (hs : s.seqState = seqCode q)
    (ha : seqAction s.cfg q = .word a v) : seqStep s = seqWord q a v s := by
  simp only [seqStep, hs, seqOfCode_seqCode, ha]

theorem seqStep_eng {s : State} {q : SeqState} {op : EngOp} {a : Word} {b : BitIndex} (hs : s.seqState = seqCode q)
    (ha : seqAction s.cfg q = .eng op a b) : seqStep s = seqEng q op a b s := by
  simp only [seqStep, hs, seqOfCode_seqCode, ha]

theorem ne_idle_of_seqAction {c : Config} {q : SeqState} {x : SeqAction} (h : seqAction c q = x) (hx : x ≠ .rest) :
    q ≠ .idle := by
  rintro rfl
  exact hx h.symm

/-- A state that writes a word does not precede `S_STABLE` (R141). -/
theorem seqNext_of_word {c : Config} {q : SeqState} {a v : Word} (h : seqAction c q = .word a v) :
    seqNext c false q ≠ .stable := by
  intro hnext
  cases q <;> simp_all [seqNext, seqAction]

theorem nothing_issued_of_seqAt {code : BitVec 6} {s : State} (h : SeqAt code s) (hr : s.rsp = none) :
    { s with rsp := none, engPhase := .idle, seqIssued := false, engDone := false } = s := by
  obtain ⟨-, hp, hi, hd, -⟩ := h
  cases s
  subst hp hi hd hr
  rfl

/-- A change of `seq_state` alone leaves the CBS about to act, in the state it names. -/
theorem seqAt_moved {code next : BitVec 6} {s : State} (h : SeqAt code s) : SeqAt next { s with seqState := next } := by
  obtain ⟨hund, hp, hi, hd, hb, -⟩ := h
  exact ⟨hund, hp, hi, hd, hb, rfl⟩

/-! ### Word writes -/

/-- A state whose action is a word write writes it and moves on (R146, R149). -/
theorem step_word {s : State} {q : SeqState} {a v : Word} (h : SeqAt (seqCode q) s)
    (ha : seqAction s.cfg q = .word a v) (hm : isMapped s.cfg (targetWord s.cfg a) = true) :
    ∃ m, step s = .next { s with
        rsp := none, seqState := seqCode (seqNext s.cfg false q), settleCnt := if q = .oscCfg then 0 else s.settleCnt
        events := s.events ++ [.busW a v], mem := m }
      ∧ (s.mem.wf s.cfg = true → Memory.wf m s.cfg = true ∧ WordWritten a v s { s with mem := m }) := by
  have ⟨_, _, _, _, _, hs⟩ := h
  obtain ⟨t, ht, hframe, hwf⟩ := busWrite_written (s := { s with rsp := none }) (v := v) hm
  have hcnt : t.settleCnt = s.settleCnt := by rw [hframe]
  have hcfg : t.cfg = s.cfg := by rw [hframe]
  rw [step_seq_fresh h (ne_idle_of_seqAction ha nofun) (ne_stable_of_seqAction ha nofun),
    seqStep_word (s := { s with rsp := none }) hs ha]
  refine ⟨t.mem, ?_, fun hmem => ?_⟩
  · simp only [seqWord, ht, enter_of_ne_stable (seqNext_of_word ha), hcnt]
    rw [hframe]
  · obtain ⟨hmw, hwritten⟩ := hwf hmem
    rw [hframe] at hmw hwritten
    exact ⟨hmw, hwritten⟩

/-- The step of a row of R141 that writes a word (R146, R149). -/
theorem step_wordRow {s : State} {code next : BitVec 6} {a v : Word} (hrow : (code, a, v, next) ∈ wordRows s.cfg)
    (h : SeqAt code s) (hm : isMapped s.cfg (targetWord s.cfg a) = true) :
    ∃ m, step s = .next { s with
        rsp := none, seqState := next, settleCnt := if code = 0x02#6 then 0 else s.settleCnt
        events := s.events ++ [.busW a v], mem := m }
      ∧ (s.mem.wf s.cfg = true → Memory.wf m s.cfg = true ∧ WordWritten a v s { s with mem := m }) := by
  obtain ⟨q, hq, ha, hnext⟩ := wordRow_state hrow
  simp only at hq ha hnext
  obtain rfl := seqCode_of_seqOfCode hq
  have hcfg : seqCode q = 0x02#6 ↔ q = .oscCfg := ⟨fun e => seqCode_injective (q' := .oscCfg) e, fun e => e ▸ rfl⟩
  simpa only [hnext, hcfg] using step_word h ha hm

/-- Settles O44. -/
theorem wordStatesWriteOneWord : Obligations.WordStatesWriteOneWord := by
  intro s code next a v hrow h hmem hm
  obtain ⟨m, hstep, hwf⟩ := step_wordRow hrow h hm
  exact ⟨_, hstep, rfl, (hwf hmem).2⟩


/-! ### An engine operation of the sequencer -/

/-- The state after the step that issues a CBS state's operation (R145). -/
def issuedForSeq (op : EngOp) (a : Word) (b : BitIndex) (s : State) : State :=
  { issue .seq op a b false { s with rsp := none } with seqIssued := true }

section
variable {s : State} {q : SeqState} {op : EngOp} {a : Word} {b : BitIndex}

/-- The first step of a state that uses the engine issues its operation (R145). -/
theorem step_issue (h : SeqAt (seqCode q) s) (ha : seqAction s.cfg q = .eng op a b) :
    step s = .next (issuedForSeq op a b s) := by
  have ⟨_, _, hi, _, _, hs⟩ := h
  rw [step_seq_fresh h (ne_idle_of_seqAction ha nofun) (ne_stable_of_seqAction ha nofun),
    seqStep_eng (s := { s with rsp := none }) hs ha, seqEng, if_pos (by exact hi)]
  rfl

theorem isEngState_of_seqAction (ha : seqAction s.cfg q = .eng op a b) : isEngState s.cfg q = true := by
  simp only [isEngState, ha]

/-- After the issue the operation is in flight. -/
theorem inFlight_issuedForSeq (h : SeqAt (seqCode q) s) (ha : seqAction s.cfg q = .eng op a b) :
    InFlight (issuedForSeq op a b s) := by
  have hstep := step_issue h ha
  have ⟨⟨hc, hu, hq⟩, hp, hi, hd, hb, hs⟩ := h
  have hmode : Mode s :=
    .fresh (ne_idle_of_seqAction ha nofun) (ne_stable_of_seqAction ha nofun) hs hp hi hd hb
  exact ⟨hc, hu, (step_outcome (resetRaised_of_quiet hq) hstep).mode (s := absorb s) (hmode.of_eq rfl),
    issuePhase_ne_idle s.cfg op a⟩

theorem issuedForSeq_rd (a : Word) (b : BitIndex) (s : State) :
    issuedForSeq .rd a b s = { s with
      rsp := none, seqIssued := true, engOwner := .seq, engOp := .rd, engAddr := a, engBit := b, engVal := false
      engAlias := if inWindow s.cfg a then aliasAddr s.cfg a b else s.engAlias
      engPhase := issuePhase s.cfg .rd a } := by
  rw [issuedForSeq, issue_rd]

/-- In a quiet environment a step while an operation is in flight is its engine phase. -/
theorem InFlight.step_of_quiet (h : InFlight s) (hq : s.stimuli = []) :
    step s = .next (engineStep { s with rsp := none }) := by
  rw [h.step_eq (resetRaised_of_quiet hq), absorb_of_quiet hq]

theorem seqStep_consume (hs : s.seqState = seqCode q) (ha : seqAction s.cfg q = .eng op a b) (hi : s.seqIssued = true)
    (hd : s.engDone = true) :
    seqStep s = enter (seqNext s.cfg s.engResult q) { s with engDone := false, seqIssued := false } := by
  rw [seqStep_eng hs ha, seqEng, if_neg (by simp [hi]), if_pos hd]

/-- With the operation done, the next step consumes its result: from there the CBS goes on as if nothing had been issued
(R145). -/
theorem step_consume {q' : SeqState} (h : SeqAt (seqCode q) s) (ha : seqAction s.cfg q = .eng op a b)
    (hr : s.rsp = none) (hnext : seqNext s.cfg s.engResult q = q') :
    step { s with engPhase := .idle, seqIssued := true, engDone := true } = .next (enter q' s) := by
  have ⟨hund, _, _, _, hb, hs⟩ := h
  have hstep := step_seq_consume (s := { s with engPhase := .idle, seqIssued := true, engDone := true }) hund hs
    (isEngState_of_seqAction ha) rfl rfl rfl hb
  rw [← hnext]
  refine hstep.trans (congrArg Host.Outcome.next ?_)
  refine (seqStep_consume (by exact hs) (by exact ha) rfl rfl).trans ?_
  exact congrArg (enter (seqNext s.cfg s.engResult q)) (nothing_issued_of_seqAt h hr)

end

/-! ### Polls -/

/-- The state after a poll's read and before the CBS moves on or reads again (R145, R150). -/
def pollRead (a : Word) (b : BitIndex) (s : State) : State :=
  { s with
    rsp := none, engOwner := .seq, engOp := .rd, engAddr := a, engBit := b, engVal := false
    engAlias := if inWindow s.cfg a then aliasAddr s.cfg a b else s.engAlias, engResult := engineBit s a b
    draws := s.draws.drop (drawsOf s.cfg (busAddress s.cfg a b))
    drawCount := s.drawCount + drawsOf s.cfg (busAddress s.cfg a b)
    events := s.events ++ [.busR (busAddress s.cfg a b) (answer s (busAddress s.cfg a b))] }

/-- A poll is issue, read and consume: three steps, which move on by the bit read (R145, R150, R156). -/
theorem runSteps_poll {s : State} {q : SeqState} {a : Word} {b : BitIndex} (h : SeqAt (seqCode q) s)
    (ha : seqAction s.cfg q = .eng .rd a b) (hr : EngineReaches s.cfg a) :
    runSteps 3 s = .next (enter (seqNext s.cfg (engineBit s a b) q) (pollRead a b s)) := by
  have ⟨hund, hp, hi, hd, hb, hs⟩ := h
  have hissue := step_issue h ha
  have hfl := inFlight_issuedForSeq h ha
  rw [issuedForSeq_rd] at hissue hfl
  obtain ⟨haligned, hmap⟩ := clockWord_wf hund.1 (clockWord_of_seqAction (.inl ⟨_, _, ha⟩))
  have hstep := hfl.step_of_quiet hund.2.2
  rw [engineStep_read (by exact hund.1) (phaseFits_of_mode (hfl.mode.of_eq rfl)) rfl (by exact hfl.phase)
    (by exact haligned) (by exact hr) (fun _ => hmap) rfl, complete_of_seq rfl] at hstep
  have hconsume := step_consume (s := pollRead a b s) h ha rfl rfl
  exact (runSteps_succ hissue 2).trans ((runSteps_succ hstep 1).trans (runSteps_succ hconsume 0))

/-- Settles O46: the bit read picks the row's successor, and entering `S_STABLE` responds (R164). -/
theorem pollMovesOnExactlyOnOne : Obligations.PollMovesOnExactlyOnOne := by
  intro s code next a b A n v hrow h hr hA hn hv
  obtain ⟨q, q', hq, ha, hnext, hmoves⟩ := pollRow_state hrow
  simp only at hq ha hnext
  subst hq hn hv hnext
  rw [runSteps_poll h ha hr, hmoves]
  have ⟨_, _, _, _, hb, _⟩ := h
  have halias : (if inWindow s.cfg a = true then aliasAddr s.cfg a b else s.engAlias)
      = if inWindow s.cfg a = true then A else s.engAlias := by
    split
    · rename_i hw
      rw [hA, busAddress, if_pos hw]
    · rfl
  cases hbit : engineBit s a b with
  | false =>
    rw [enter_of_ne_stable (by exact ne_stable_of_seqAction ha nofun)]
    simp [pollRead, hbit, hb, halias, ← hA]
  | true =>
    by_cases hlast : q' = .stable
    · subst hlast
      simp [enter, respond, seqCode, pollRead, hbit, halias, ← hA]
    · have hcode : (seqCode q' == 0x20#6) = false := beq_false_of_ne fun e => hlast (seqCode_injective (q' := .stable) e)
      rw [enter_of_ne_stable (by exact hlast)]
      simp [pollRead, hbit, hb, hcode, halias, ← hA]


/-! ### Polls that read 0 -/

/-- `t` is `s` after `n` reads by a poll of `(a, b)`: the reads' draws are taken and their events recorded, and what a
read depends on and what the client presents are as before. -/
structure Polled (a : Word) (b : BitIndex) (n : Nat) (s t : State) : Prop where
  cfg : t.cfg = s.cfg
  mem : t.mem = s.mem
  draws : t.draws = s.draws.drop (n * drawsOf s.cfg (busAddress s.cfg a b))
  drawCount : t.drawCount = s.drawCount + n * drawsOf s.cfg (busAddress s.cfg a b)
  reqs : t.reqs = s.reqs
  events : t.events = s.events ++ (List.range n).map fun k => Event.busR (busAddress s.cfg a b)
    (answer (skipDraws (k * drawsOf s.cfg (busAddress s.cfg a b)) s) (busAddress s.cfg a b))

section
variable {s t : State} {q : SeqState} {a : Word} {b : BitIndex} {n : Nat}

theorem Polled.zero : Polled a b 0 s s where
  cfg := rfl
  mem := rfl
  draws := by simp
  drawCount := by simp
  reqs := rfl
  events := by simp

/-- The next read is answered as from `s` after the draws of the reads before it. -/
theorem Polled.answer_eq (h : Polled a b n s t) (x : Word) :
    answer t x = answer (skipDraws (n * drawsOf s.cfg (busAddress s.cfg a b)) s) x :=
  answer_congr x h.cfg h.mem h.draws h.drawCount

theorem Polled.engineBit_eq (h : Polled a b n s t) :
    engineBit t a b = engineBit (skipDraws (n * drawsOf s.cfg (busAddress s.cfg a b)) s) a b :=
  engineBit_congr a b h.cfg h.mem h.draws h.drawCount

theorem Polled.succ (h : Polled a b n s t) : Polled a b (n + 1) s (pollRead a b t) where
  cfg := h.cfg
  mem := h.mem
  draws := by
    simp only [pollRead, h.cfg, h.draws, List.drop_drop, Nat.succ_mul]
  drawCount := by
    simp only [pollRead, h.cfg, h.drawCount, Nat.succ_mul, Nat.add_assoc]
  reqs := h.reqs
  events := by
    simp only [pollRead, h.cfg, h.events, h.answer_eq, List.range_succ, List.map_append, List.map_cons, List.map_nil,
      List.append_assoc]

/-- A poll that reads 0 reads on (R150, R163). -/
theorem runSteps_pollZero {q' : SeqState} (h : SeqAt (seqCode q) s) (ha : seqAction s.cfg q = .eng .rd a b)
    (hnext : ∀ v, seqNext s.cfg v q = if v then q' else q) (hr : EngineReaches s.cfg a)
    (hbit : engineBit s a b = false) : runSteps 3 s = .next (pollRead a b s) := by
  have ⟨_, _, _, _, _, hs⟩ := h
  rw [runSteps_poll h ha hr, hnext, hbit, if_neg Bool.false_ne_true,
    enter_of_ne_stable (ne_stable_of_seqAction ha nofun), ← hs]
  rfl

/-- A poll whose first `n` reads return 0 is in its state still after them (R163), by induction on the reads. -/
theorem runSteps_zeros {q' : SeqState} (h : SeqAt (seqCode q) s) (ha : seqAction s.cfg q = .eng .rd a b)
    (hnext : ∀ v, seqNext s.cfg v q = if v then q' else q) (hr : EngineReaches s.cfg a) (n : Nat)
    (hbits : ∀ k < n, engineBit (skipDraws (k * drawsOf s.cfg (busAddress s.cfg a b)) s) a b = false) :
    ∃ t, runSteps (3 * n) s = .next t ∧ SeqAt (seqCode q) t ∧ Polled a b n s t := by
  induction n with
  | zero => exact ⟨s, rfl, h, .zero⟩
  | succ n ih =>
    obtain ⟨t, hrun, ht, hpolled⟩ := ih fun k hk => hbits k (Nat.lt_succ_of_lt hk)
    have hzero : engineBit t a b = false := hpolled.engineBit_eq.trans (hbits n (Nat.lt_succ_self n))
    have hread := runSteps_pollZero ht (hpolled.cfg ▸ ha) (hpolled.cfg ▸ hnext) (hpolled.cfg ▸ hr) hzero
    exact ⟨pollRead a b t, (runSteps_add hrun 3).trans hread, ht, hpolled.succ⟩

/-- Settles O47. -/
theorem pollOfZerosWaitsOn : Obligations.PollOfZerosWaitsOn := by
  intro s code next a b A m n hrow h hr hA hm hbits
  obtain ⟨q, q', hq, ha, -, hnext⟩ := pollRow_state hrow
  simp only at hq ha
  subst hq hA hm
  obtain ⟨t, hrun, ht, hpolled⟩ := runSteps_zeros h ha hnext hr n hbits
  exact ⟨t, hrun, ht, hpolled.reqs, hpolled.mem, hpolled.events⟩

/-- A poll whose first `n` reads return 0 and the next 1 moves on after them (R150). -/
theorem runSteps_zerosThenOne {q' : SeqState} (h : SeqAt (seqCode q) s) (ha : seqAction s.cfg q = .eng .rd a b)
    (hnext : ∀ v, seqNext s.cfg v q = if v then q' else q) (hr : EngineReaches s.cfg a) (n : Nat)
    (hbits : ∀ k < n, engineBit (skipDraws (k * drawsOf s.cfg (busAddress s.cfg a b)) s) a b = false)
    (hone : engineBit (skipDraws (n * drawsOf s.cfg (busAddress s.cfg a b)) s) a b = true) :
    ∃ t, runSteps (3 * (n + 1)) s = .next (enter q' t) ∧ SeqAt (seqCode q) t ∧ Polled a b (n + 1) s t := by
  obtain ⟨t, hrun, ht, hpolled⟩ := runSteps_zeros h ha hnext hr n hbits
  have hread := runSteps_poll ht (hpolled.cfg ▸ ha) (hpolled.cfg ▸ hr)
  rw [hpolled.engineBit_eq, hone, hpolled.cfg, hnext, if_pos rfl] at hread
  exact ⟨pollRead a b t, (runSteps_add hrun 3).trans hread, ht, hpolled.succ⟩

end


/-! ### Handshakes -/

/-- The four states of a handshake: three that write its register and one that polls its acknowledge (R150). -/
theorem handshakeRow_rows {c : Config} {code next : BitVec 6} {u : Word} {k : AckLoc}
    (h : (code, u, k, next) ∈ handshakeRows c) :
    (code, u, 1#32 <<< c.uenBit.toNat, code + 1#6) ∈ wordRows c ∧ (code + 1#6, u, 0#32, code + 2#6) ∈ wordRows c
      ∧ (code + 2#6, u, 1#32 <<< c.uenBit.toNat, code + 3#6) ∈ wordRows c
      ∧ (code + 3#6, k.addr, k.bit, next) ∈ pollRows c
      ∧ code ≠ 0x02#6 ∧ code + 1#6 ≠ 0x02#6 ∧ code + 2#6 ≠ 0x02#6 := by
  simp only [handshakeRows, List.mem_cons, Prod.mk.injEq, List.not_mem_nil, or_false] at h
  rcases h with ⟨rfl, rfl, rfl, rfl⟩ | ⟨rfl, rfl, rfl, rfl⟩ | ⟨rfl, rfl, rfl, rfl⟩ | ⟨rfl, rfl, rfl, rfl⟩ <;>
    simp [wordRows, pollRows]

/-- The state after a word write that left memory as `m`, in any state but `S_OSC_CFG` (R146). -/
def wroteWord (next : BitVec 6) (a v : Word) (m : Memory) (s : State) : State :=
  { s with rsp := none, seqState := next, mem := m, events := s.events ++ [.busW a v] }

theorem seqAt_wroteWord {s : State} {code next : BitVec 6} {a v : Word} {m : Memory} (h : SeqAt code s) :
    SeqAt next (wroteWord next a v m s) :=
  seqAt_moved h

theorem step_wroteWord {s : State} {code next : BitVec 6} {a v : Word} (hrow : (code, a, v, next) ∈ wordRows s.cfg)
    (hne : code ≠ 0x02#6) (h : SeqAt code s) (hm : isMapped s.cfg (targetWord s.cfg a) = true) :
    ∃ m, step s = .next (wroteWord next a v m s)
      ∧ (s.mem.wf s.cfg = true → Memory.wf m s.cfg = true ∧ WordWritten a v s (wroteWord next a v m s)) := by
  obtain ⟨m, hstep, hwf⟩ := step_wordRow hrow h hm
  rw [if_neg hne] at hstep
  exact ⟨m, hstep, hwf⟩

/-- The state after a handshake's three writes left memory as `m` (R150). -/
def handshakeWritten (code : BitVec 6) (u one : Word) (m : Memory) (s : State) : State :=
  { s with
    rsp := none, seqState := code + 3#6, mem := m, events := s.events ++ [.busW u one, .busW u 0, .busW u one] }

theorem seqAt_handshakeWritten {s : State} {code : BitVec 6} {u one : Word} {m : Memory} (h : SeqAt code s) :
    SeqAt (code + 3#6) (handshakeWritten code u one m s) :=
  seqAt_moved h

/-- A handshake's three writes take a step each and leave the register as written last (R150). -/
theorem runSteps_handshakeWrites {s : State} {code next : BitVec 6} {u one : Word} {k : AckLoc}
    (hrow : (code, u, k, next) ∈ handshakeRows s.cfg) (h : SeqAt code s)
    (hm : isMapped s.cfg (targetWord s.cfg u) = true) (hone : one = 1#32 <<< s.cfg.uenBit.toNat) :
    ∃ m, runSteps 3 s = .next (handshakeWritten code u one m s) ∧ SeqAt (code + 3#6) (handshakeWritten code u one m s)
      ∧ (s.mem.wf s.cfg = true → WordWritten u one s { s with mem := m }) := by
  obtain ⟨hrow1, hrow2, hrow3, -, hne1, hne2, hne3⟩ := handshakeRow_rows hrow
  subst hone
  obtain ⟨m1, hstep1, hwf1⟩ := step_wroteWord hrow1 hne1 h hm
  have h1 := seqAt_wroteWord (next := code + 1#6) (a := u) (v := 1#32 <<< s.cfg.uenBit.toNat) (m := m1) h
  obtain ⟨m2, hstep2, hwf2⟩ := step_wroteWord (by exact hrow2) hne2 h1 (by exact hm)
  have h2 := seqAt_wroteWord (next := code + 2#6) (a := u) (v := 0#32) (m := m2) h1
  obtain ⟨m3, hstep3, hwf3⟩ := step_wroteWord (by exact hrow3) hne3 h2 (by exact hm)
  refine ⟨m3, (runSteps_succ hstep1 2).trans ((runSteps_succ hstep2 1).trans ((runSteps_succ hstep3 0).trans ?_)),
    seqAt_handshakeWritten h, fun hmem => ?_⟩
  · simp only [wroteWord, handshakeWritten, List.append_assoc]
    rfl
  · obtain ⟨hmw1, hw1⟩ := hwf1 hmem
    obtain ⟨hmw2, hw2⟩ := hwf2 hmw1
    obtain ⟨-, hw3⟩ := hwf3 hmw2
    exact .trans (by rfl) (.trans (by rfl) hw1 hw2) hw3

theorem enter_seqCode_events (q : SeqState) (s : State) :
    (enter q s).events = s.events ++ (if seqCode q = 0x20#6 then [.resp 0] else []) := by
  by_cases hq : q = .stable
  · subst hq
    rfl
  · have hcode : seqCode q ≠ 0x20#6 := fun e => hq (seqCode_injective (q' := .stable) e)
    rw [enter_of_ne_stable hq, if_neg hcode, List.append_nil]

/-- Settles O48: the writes, then the poll of the acknowledge. -/
theorem handshakeWritesThenPolls : Obligations.HandshakeWritesThenPolls := by
  intro s code next u k A one m hrow h hm hr hA hmd hone
  obtain ⟨m', hwrites, hat, hwritten⟩ := runSteps_handshakeWrites hrow h hm hone
  obtain ⟨-, -, -, hpoll, -⟩ := handshakeRow_rows hrow
  obtain ⟨q, q', hq, ha, hnext, hmoves⟩ := pollRow_state hpoll
  simp only at hq ha hnext
  refine ⟨_, hwrites, rfl, hwritten, fun n hbits hbit => ?_⟩
  subst hA hmd hnext
  rw [hq] at hat
  obtain ⟨t, hrun, ht, hpolled⟩ := runSteps_zerosThenOne hat ha hmoves hr n hbits hbit
  refine ⟨enter q' t, (runSteps_add hwrites _).trans hrun, enter_seqState q' t, ?_, ?_, ?_, ?_⟩
  · rw [enter_frame]
    exact hpolled.draws
  · rw [enter_mem]
    exact hpolled.mem
  · rw [enter_frame]
    exact ht.1.2.1
  · rw [enter_seqCode_events, hpolled.events]
    rfl


/-! ### Power-up states -/

section
variable {s : State} {q q' : SeqState} {p : Word} {b : BitIndex}

/-- The state after a power-up state's operation on the alias path left memory as `m`, its result to consume. -/
def poweredByAlias (p : Word) (b : BitIndex) (m : Memory) (s : State) : State :=
  { s with
    rsp := none, engOwner := .seq, engOp := .clr, engAddr := p, engBit := b, engVal := false
    engAlias := aliasAddr s.cfg p b, engWdata := 0
    events := s.events ++ [.busW (aliasAddr s.cfg p b) 0], mem := m }

/-- A power-up state with its word in the window is issue, alias write of 0 and consume (R105, R106, R147). -/
theorem runSteps_powerAlias (h : SeqAt (seqCode q) s) (ha : seqAction s.cfg q = .eng .clr p b)
    (hnext : ∀ v, seqNext s.cfg v q = q') (hq' : q' ≠ .stable) (hw : inWindow s.cfg p = true) (hd : MasksDisjoint s.cfg) :
    ∃ m, runSteps 3 s = .next { poweredByAlias p b m s with seqState := seqCode q' }
      ∧ (s.mem.wf s.cfg = true → OneBitChanged p b false s { s with mem := m }) := by
  have hund := h.1
  obtain ⟨haligned, hmap⟩ := clockWord_wf hund.1 (clockWord_of_seqAction (.inl ⟨_, _, ha⟩))
  have hissue := step_issue h ha
  have hfl := inFlight_issuedForSeq h ha
  rw [issuedForSeq, issue_alias (by exact hw)] at hissue hfl
  simp only [reduceCtorEq, if_false] at hissue hfl
  have hstep := hfl.step_of_quiet hund.2.2
  obtain ⟨m, hwrite, hwf⟩ := engineStep_aliasWrite (by exact hund.1) (phaseFits_of_mode (hfl.mode.of_eq rfl)) rfl
    (by exact haligned) (by exact hmap) (by exact hd)
  rw [hwrite, complete_of_seq rfl] at hstep
  have hconsume := step_consume (s := poweredByAlias p b m s) h ha rfl (hnext _)
  rw [enter_of_ne_stable hq'] at hconsume
  refine ⟨m, (runSteps_succ hissue 2).trans ((runSteps_succ hstep 1).trans (runSteps_succ hconsume 0)), fun hmem => ?_⟩
  obtain ⟨-, hbit⟩ := hwf hmem
  rw [show (issueWdata .clr false).getLsbD 0 = false from rfl] at hbit
  exact hbit

/-- The state after a power-up state's operation on the direct path left memory as `m`, its result to consume. -/
def poweredDirectly (p : Word) (b : BitIndex) (m : Memory) (s : State) : State :=
  { s with
    rsp := none, engOwner := .seq, engOp := .clr, engAddr := p, engBit := b, engVal := false
    engTmp := answer s p
    draws := s.draws.drop (drawsOf s.cfg p), drawCount := s.drawCount + drawsOf s.cfg p
    events := s.events ++ [.busR p (answer s p), .busW p (clearBitIn (answer s p) b)], mem := m }

/-- A power-up state with its word outside the window is issue, read, write and consume (R105, R106, R147). -/
theorem runSteps_powerDirect (h : SeqAt (seqCode q) s) (ha : seqAction s.cfg q = .eng .clr p b)
    (hnext : ∀ v, seqNext s.cfg v q = q') (hq' : q' ≠ .stable) (hd : OnDirectPath s.cfg p) :
    ∃ m, runSteps 4 s = .next { poweredDirectly p b m s with seqState := seqCode q' }
      ∧ (s.mem.wf s.cfg = true → WordWritten p (clearBitIn (answer s p) b) s { s with mem := m }) := by
  have hissue := step_issue h ha
  have hfl := inFlight_issuedForSeq h ha
  rw [issuedForSeq, issue_direct (by exact hd.1)] at hissue hfl
  obtain ⟨m, hhalf, hwf⟩ := runSteps_half .clear hfl (calmFor_of_quiet h.1.2.2 2) rfl hd.2
  rw [afterHalfWrite, if_neg (fun h => nomatch h.2.1), complete_of_seq rfl] at hhalf
  have hdrop : s.stimuli.drop 2 = s.stimuli := by simp [h.1.2.2]
  simp only [halfWritten, halfRead, List.append_assoc, hdrop] at hhalf
  have hconsume := step_consume (s := poweredDirectly p b m s) h ha rfl (hnext _)
  rw [enter_of_ne_stable hq'] at hconsume
  have hrun := (runSteps_succ hissue 3).trans ((runSteps_add hhalf 1).trans (runSteps_succ hconsume 0))
  exact ⟨m, hrun, fun hmem => (hwf hmem).2⟩

end

/-- Settles O45: the row's state, on either path. -/
theorem powerUpStatesClearOneBit : Obligations.PowerUpStatesClearOneBit := by
  intro s code next b p hrow h hmem hp
  obtain ⟨q, q', hq, ha, hnext, hq', hmoves⟩ := powerRow_state hrow
  simp only at hq ha hnext
  subst hq hnext hp
  refine ⟨fun hw hd => ?_, fun hd => ?_⟩
  · obtain ⟨m, hrun, hwf⟩ := runSteps_powerAlias h ha hmoves hq' hw hd
    exact ⟨_, hrun, rfl, hwf hmem⟩
  · obtain ⟨m, hrun, hwf⟩ := runSteps_powerDirect h ha hmoves hq' hd
    exact ⟨_, hrun, rfl, hwf hmem, (hwf hmem).half .clear⟩

end Sys2Proof.Machine
end

section
/-! PROOF. The whole bring-up under R7's defaults, composed of the runs of its states (`41_clock_sequencer.md` R167). -/

namespace Sys2Proof.Machine

/-! ### Runs from one state of the sequencer to another -/

/-- Under the configuration `c`, `k` steps lead from `s` to the CBS state `code` about to act, take `d` draws and add the
events `new`. -/
structure Advances (c : Config) (k : Nat) (code : BitVec 6) (d : Nat) (new : List Event) (s t : State) : Prop where
  run : runSteps k s = .next t
  seqAt : SeqAt code t
  cfg : t.cfg = c
  reqs : t.reqs = s.reqs
  draws : t.draws = s.draws.drop d
  events : t.events = s.events ++ new

theorem Advances.trans {c : Config} {j k d e : Nat} {code code' : BitVec 6} {new new' : List Event} {s t u : State}
    (h : Advances c j code d new s t)
    (h' : Advances c k code' e new' t u) : Advances c (j + k) code' (d + e) (new ++ new') s u where
  run := (runSteps_add h.run k).trans h'.run
  seqAt := h'.seqAt
  cfg := h'.cfg
  reqs := h'.reqs.trans h.reqs
  draws := by rw [h'.draws, h.draws, List.drop_drop]
  events := by rw [h'.events, h.events, List.append_assoc]

/-- A configuration whose bring-up has plain clock words, `PDRUNCFG` in the window, and volatile polled words in it, as
R7's defaults have. -/
structure DrawnPolls (c : Config) : Prop where
  plain : clockWordsPlain c = true
  disjoint : c.highMask &&& c.lowMask = 0#32
  power : inWindow c (c.map.base + c.map.pdRunCfg) = true
  polled : (pollRows c).all (fun row => inWindow c row.2.1 && isVolatile c row.2.1) = true

theorem DrawnPolls.row {c : Config} (h : DrawnPolls c) {row : BitVec 6 × Word × BitIndex × BitVec 6}
    (hrow : row ∈ pollRows c) : inWindow c row.2.1 = true ∧ isVolatile c row.2.1 = true := by
  simpa only [Bool.and_eq_true] using List.all_eq_true.1 h.polled row hrow

section
variable {c : Config} {s : State} {code next : BitVec 6} {a v : Word} (hc : DrawnPolls c) (hcfg : s.cfg = c)
include hc hcfg

/-- A state that writes a word, `S_OSC_CFG` apart (R146). -/
theorem advances_word (hrow : (code, a, v, next) ∈ wordRows c) (hne : code ≠ 0x02#6) (h : SeqAt code s) :
    ∃ t, Advances c 1 next 0 [.busW a v] s t := by
  subst hcfg
  obtain ⟨q, -, ha, -⟩ := wordRow_state hrow
  obtain ⟨m, hstep, -⟩ := step_wroteWord hrow hne h (clockWord_target h.1.1 hc.plain (clockWord_of_seqAction (.inr ⟨v, ha⟩)))
  exact ⟨_, runSteps_succ hstep 0, seqAt_wroteWord h, rfl, rfl, rfl, rfl⟩

/-- `S_OSC_CFG` and the settle ticks after it (R148, R149, R151). -/
theorem advances_oscillator (hrow : (0x02#6, a, v, 0x03#6) ∈ wordRows c) (h : SeqAt 0x02#6 s) :
    ∃ t, Advances c (1 + (c.oscSettleIter.toNat + 1)) 0x04#6 0 [.busW a v] s t := by
  subst hcfg
  obtain ⟨q, -, ha, -⟩ := wordRow_state hrow
  obtain ⟨m, hstep, -⟩ := step_wordRow hrow h (clockWord_target h.1.1 hc.plain (clockWord_of_seqAction (.inr ⟨v, ha⟩)))
  have hsettle := runSteps_settle (s := { s with
    rsp := none, seqState := 0x03#6, settleCnt := 0, events := s.events ++ [.busW a v], mem := m })
    (seqAt_moved (s := s) h) s.cfg.oscSettleIter.toNat (Nat.zero_add _)
  exact ⟨_, (runSteps_add (runSteps_succ hstep 0) _).trans hsettle, seqAt_moved (s := s) h, rfl, rfl, rfl, rfl⟩

/-- A power-up state whose word is in the window (R147, R154). -/
theorem advances_power {b : BitIndex} {p : Word} (hrow : (code, b, next) ∈ powerRows c) (h : SeqAt code s)
    (hp : p = c.map.base + c.map.pdRunCfg) : ∃ t, Advances c 3 next 0 [.busW (aliasAddr c p b) 0] s t := by
  obtain ⟨q, q', hq, ha, hnext, hq', hmoves⟩ := powerRow_state hrow
  simp only at hq ha hnext
  subst hcfg hq hnext hp
  obtain ⟨m, hrun, -⟩ := runSteps_powerAlias h ha hmoves hq' hc.power hc.disjoint
  exact ⟨_, hrun, seqAt_moved h, rfl, rfl, rfl, rfl⟩

/-- The three writes of a handshake (R150). -/
theorem advances_handshakeWrites {k : AckLoc} {one : Word} (hrow : (code, a, k, next) ∈ handshakeRows c)
    (h : SeqAt code s) (hone : one = 1#32 <<< c.uenBit.toNat) :
    ∃ t, Advances c 3 (code + 3#6) 0 [.busW a one, .busW a 0, .busW a one] s t := by
  subst hcfg
  obtain ⟨hwrite, -⟩ := handshakeRow_rows hrow
  obtain ⟨q, -, ha, -⟩ := wordRow_state hwrite
  have hm := clockWord_target h.1.1 hc.plain (clockWord_of_seqAction (.inr ⟨_, ha⟩))
  obtain ⟨m, hrun, hat, -⟩ := runSteps_handshakeWrites hrow h hm hone
  exact ⟨_, hrun, hat, rfl, rfl, rfl, rfl⟩

end

/-! ### Polls of a volatile word -/

/-- A word whose bit 0 is replaced by itself is the word. -/
theorem replace_bitZero (d : Word) : (d &&& 0xFFFFFFFE#32) ||| (if d.getLsbD 0 then 1#32 else 0#32) = d := by
  have hmask (i : Nat) (hi : i < 32) : (0xFFFFFFFE#32).getLsbD i = !decide (i = 0) := by
    rw [show 0xFFFFFFFE#32 = ~~~1#32 by decide, BitVec.getLsbD_not, BitVec.getLsbD_one]
    simp [hi]
  apply BitVec.eq_of_getLsbD_eq
  intro i hi
  rw [BitVec.getLsbD_or, BitVec.getLsbD_and, hmask i hi]
  by_cases h0 : i = 0
  · subst h0
    cases h : d.getLsbD 0 <;> simp
  · cases h : d.getLsbD 0 <;> simp [h0]

/-- An alias read of a volatile word is answered by the draw itself: its bit 0 is drawn as well (R52). -/
theorem answer_volatileAlias {s : State} {A : Word} (hA : inAliasWindow s.cfg A = true)
    (hv : isVolatile s.cfg (aliasDecode s.cfg A).1 = true) : answer s A = nextDraw s := by
  simp only [answer, hA, hv, if_true]
  exact replace_bitZero _

theorem nextDraw_skipDraws {s : State} {l later : List Word} (h : s.draws = l ++ later) {k : Nat} (hk : k < l.length) :
    nextDraw (skipDraws k s) = l[k] := by
  have hdrop : (skipDraws k s).draws = l[k] :: (l.drop (k + 1) ++ later) := by
    simp only [skipDraws, h, List.drop_append_of_le_length hk.le]
    rw [List.drop_eq_getElem_cons hk, List.cons_append]
  simp only [nextDraw, hdrop]

section
variable {s : State} {a : Word} {b : BitIndex}

/-- A poll of a volatile word of the window takes a draw, which is what it is answered and whose bit 0 it keeps (R52,
R106). -/
theorem volatilePoll_draws (hc : configWf s.cfg = true) (ha : wordAligned a = true) (hw : inWindow s.cfg a = true)
    (hv : isVolatile s.cfg a = true) (hd : MasksDisjoint s.cfg) :
    drawsOf s.cfg (busAddress s.cfg a b) = 1 ∧ answer s (busAddress s.cfg a b) = nextDraw s
      ∧ engineBit s a b = (nextDraw s).getLsbD 0 := by
  have hA := inAliasWindow_aliasAddr b hc ⟨hw, ha⟩
  have htarget : isVolatile s.cfg (aliasDecode s.cfg (aliasAddr s.cfg a b)).1 = true := by
    rw [aliasDecode_aliasAddr b hc hd ⟨hw, ha⟩]
    exact hv
  rw [busAddress, if_pos hw, engineBit, if_pos hw, if_pos hv]
  exact ⟨drawsOf_drawn (.inl hA), answer_volatileAlias hA htarget, rfl⟩

/-- A poll of a volatile word of the window whose draws have bit 0 clear and then set (R150, R156). -/
theorem advances_poll {c : Config} {code next : BitVec 6} {z later : List Word} {o : Word} (hc : DrawnPolls c)
    (hcfg : s.cfg = c) (hrow : (code, a, b, next) ∈ pollRows c) (hlast : next ≠ 0x20#6) (h : SeqAt code s)
    (hdraws : s.draws = z ++ o :: later) (hz : ∀ d ∈ z, d.getLsbD 0 = false) (ho : o.getLsbD 0 = true) :
    ∃ t, Advances c (3 * (z.length + 1)) next (z.length + 1) ((z ++ [o]).map (Event.busR (busAddress c a b))) s t := by
  have hd := hc.disjoint
  obtain ⟨hw, hv⟩ := hc.row hrow
  obtain ⟨q, q', hq, ha, hnext, hmoves⟩ := pollRow_state hrow
  simp only at hq ha hnext
  subst hcfg hq hnext
  have haligned := (clockWord_wf h.1.1 (clockWord_of_seqAction (.inl ⟨_, _, ha⟩))).1
  have hdrawn (k : Nat) := volatilePoll_draws (s := skipDraws k s) (b := b) h.1.1 haligned hw hv hd
  have hone : drawsOf s.cfg (busAddress s.cfg a b) = 1 := (hdrawn 0).1
  have hlist : s.draws = (z ++ [o]) ++ later := by rw [hdraws, List.append_assoc]; rfl
  have hbits : ∀ k < z.length, engineBit (skipDraws (k * drawsOf s.cfg (busAddress s.cfg a b)) s) a b = false := by
    intro k hk
    have hk' : k < (z ++ [o]).length := by simp; omega
    rw [hone, Nat.mul_one, (hdrawn k).2.2, nextDraw_skipDraws hlist hk', List.getElem_append_left hk]
    exact hz _ (List.getElem_mem hk)
  have hlastBit : engineBit (skipDraws (z.length * drawsOf s.cfg (busAddress s.cfg a b)) s) a b = true := by
    rw [hone, Nat.mul_one, (hdrawn _).2.2, nextDraw_skipDraws hlist (by simp), List.getElem_concat_length rfl]
    exact ho
  obtain ⟨t, hrun, ht, hpolled⟩ := runSteps_zerosThenOne h ha hmoves (.inl ⟨hw, hd⟩) z.length hbits hlastBit
  have hdrawsDone := hpolled.draws
  have hq' : q' ≠ .stable := fun e => hlast (e ▸ rfl)
  rw [enter_of_ne_stable hq'] at hrun
  rw [hone, Nat.mul_one] at hdrawsDone
  refine ⟨_, hrun, seqAt_moved ht, hpolled.cfg, hpolled.reqs, hdrawsDone,
    hpolled.events.trans (congrArg (s.events ++ ·) ?_)⟩
  apply List.ext_getElem
  · simp
  · intro k hk _
    have hk' : k < (z ++ [o]).length := by simpa using hk
    have hanswer : answer (skipDraws k s) (busAddress s.cfg a b) = (z ++ [o])[k] :=
      (hdrawn k).2.1.trans (nextDraw_skipDraws hlist hk')
    simp only [List.getElem_map, List.getElem_range, hone, Nat.mul_one, hanswer]

end


/-- A handshake whose acknowledge reads 0 and then 1 (R150). -/
theorem advances_handshake {c : Config} {s : State} {code next : BitVec 6} {a one : Word} {k : AckLoc}
    {z later : List Word} {o : Word} (hc : DrawnPolls c) (hcfg : s.cfg = c)
    (hrow : (code, a, k, next) ∈ handshakeRows c) (hlast : next ≠ 0x20#6) (h : SeqAt code s)
    (hone : one = 1#32 <<< c.uenBit.toNat) (hdraws : s.draws = z ++ o :: later) (hz : ∀ d ∈ z, d.getLsbD 0 = false)
    (ho : o.getLsbD 0 = true) :
    ∃ t, Advances c (3 + 3 * (z.length + 1)) next (0 + (z.length + 1)) ([.busW a one, .busW a 0, .busW a one]
      ++ (z ++ [o]).map (Event.busR (busAddress c k.addr k.bit))) s t := by
  obtain ⟨-, -, -, hpoll, -⟩ := handshakeRow_rows hrow
  obtain ⟨t, ht⟩ := advances_handshakeWrites hc hcfg hrow h hone
  obtain ⟨u, hu⟩ := advances_poll hc ht.cfg hpoll hlast ht.seqAt (ht.draws.trans hdraws) hz ho
  exact ⟨u, ht.trans hu⟩



/-! ### The three parts of a bring-up without the USB domain -/

theorem Advances.congr {c : Config} {k k' d d' : Nat} {code : BitVec 6} {new new' : List Event} {s t : State}
    (h : Advances c k code d new s t) (hk : k = k') (hd : d = d') (hnew : new = new') : Advances c k' code d' new' s t := by
  subst hk hd hnew
  exact h

/-- The writes of the system oscillator and of the PLL's source (R167). -/
def pllSourceWrites (c : Config) : List Event :=
  [.busW (aliasAddr c (regAt c c.map.pdRunCfg) c.sysOscPdBit) 0, .busW (regAt c c.map.sysOscCtrl) (oscCtrlValue c),
    .busW (regAt c c.map.sysPllClkSel) (BitVec.ofNat 32 c.pllSrc), .busW (uenAddr c .pll) (uenWord c),
    .busW (uenAddr c .pll) 0, .busW (uenAddr c .pll) (uenWord c)]

/-- The writes of the system PLL (R167). -/
def pllWrites (c : Config) : List Event :=
  [.busW (aliasAddr c (regAt c c.map.pdRunCfg) c.sysPllPdBit) 0,
    .busW (regAt c c.map.sysPllCtrl) (BitVec.ofNat 32 c.pllCtrl)]

/-- The writes of the main clock's source, before its acknowledge is polled (R167). -/
def mainClockWrites (c : Config) : List Event :=
  [.busW (regAt c c.map.mainClkSel) (BitVec.ofNat 32 c.mainSel), .busW (uenAddr c .main) (uenWord c),
    .busW (uenAddr c .main) 0, .busW (uenAddr c .main) (uenWord c)]

section
variable {c : Config} {s : State} {z later : List Word} {o : Word} (hc : DrawnPolls c) (hcfg : s.cfg = c)
  (hdraws : s.draws = z ++ o :: later) (hz : ∀ d ∈ z, d.getLsbD 0 = false) (ho : o.getLsbD 0 = true)
include hc hcfg hdraws hz ho

/-- The system oscillator and the source of the PLL (R147 to R152). -/
theorem advances_pllSource (h : SeqAt 0x01#6 s) :
    ∃ t, Advances c (12 + c.oscSettleIter.toNat + 3 * z.length) 0x09#6 (z.length + 1)
      (pllSourceWrites c ++ (z ++ [o]).map (Event.busR (busAddress c c.ackPll.addr c.ackPll.bit))) s t := by
  obtain ⟨s1, h1⟩ := advances_power (p := regAt c c.map.pdRunCfg) (b := c.sysOscPdBit) (next := 0x02#6) hc hcfg
    (by simp [powerRows]) h rfl
  obtain ⟨s2, h2⟩ := advances_oscillator (a := regAt c c.map.sysOscCtrl) (v := oscCtrlValue c) hc h1.cfg
    (by simp [wordRows, regAt, oscCtrlValue_eq]) h1.seqAt
  obtain ⟨s3, h3⟩ := advances_word (a := regAt c c.map.sysPllClkSel) (v := BitVec.ofNat 32 c.pllSrc) (next := 0x05#6) hc
    h2.cfg (by simp [wordRows, regAt]) (by decide) h2.seqAt
  have h123 := (h1.trans h2).trans h3
  obtain ⟨s4, h4⟩ := advances_handshake (a := uenAddr c .pll) (k := c.ackPll) (next := 0x09#6) hc h3.cfg
    (by simp [handshakeRows, uenAddr, regAt]) (by decide) h3.seqAt rfl (h123.draws.trans hdraws) hz ho
  exact ⟨s4, (h123.trans h4).congr (by omega) (by omega) rfl⟩

/-- The system PLL and its lock (R154 to R156). -/
theorem advances_pllLock (h : SeqAt 0x09#6 s) :
    ∃ t, Advances c (7 + 3 * z.length) 0x0C#6 (z.length + 1)
      (pllWrites c ++ (z ++ [o]).map (Event.busR (busAddress c (regAt c c.map.sysPllStat) c.lockBit))) s t := by
  obtain ⟨s1, h1⟩ := advances_power (p := regAt c c.map.pdRunCfg) (b := c.sysPllPdBit) (next := 0x0A#6) hc hcfg
    (by simp [powerRows]) h rfl
  obtain ⟨s2, h2⟩ := advances_word (a := regAt c c.map.sysPllCtrl) (v := BitVec.ofNat 32 c.pllCtrl) (next := 0x0B#6) hc
    h1.cfg (by simp [wordRows, regAt]) (by decide) h1.seqAt
  have h12 := h1.trans h2
  obtain ⟨s3, h3⟩ := advances_poll (a := regAt c c.map.sysPllStat) (b := c.lockBit) (next := 0x0C#6) hc h2.cfg
    (by simp [pollRows, regAt]) (by decide) h2.seqAt (h12.draws.trans hdraws) hz ho
  exact ⟨s3, (h12.trans h3).congr (by omega) (by omega) rfl⟩

/-- The main clock and its divider (R157, R159). -/
theorem advances_mainClock (h : SeqAt 0x0C#6 s) :
    ∃ t, Advances c (8 + 3 * z.length) 0x12#6 (z.length + 1)
      (mainClockWrites c ++ (z ++ [o]).map (Event.busR (busAddress c c.ackMain.addr c.ackMain.bit))
        ++ [.busW (regAt c c.map.sysAhbClkDiv) (BitVec.ofNat 32 c.busDiv)]) s t := by
  obtain ⟨s1, h1⟩ := advances_word (a := regAt c c.map.mainClkSel) (v := BitVec.ofNat 32 c.mainSel) (next := 0x0D#6) hc
    hcfg (by simp [wordRows, regAt]) (by decide) h
  obtain ⟨s2, h2⟩ := advances_handshake (a := uenAddr c .main) (k := c.ackMain) (next := 0x11#6) hc h1.cfg
    (by simp [handshakeRows, uenAddr, regAt]) (by decide) h1.seqAt rfl (h1.draws.trans hdraws) hz ho
  obtain ⟨s3, h3⟩ := advances_word (a := regAt c c.map.sysAhbClkDiv) (v := BitVec.ofNat 32 c.busDiv) (next := 0x12#6) hc
    h2.cfg (by simp [wordRows, regAt]) (by decide) h2.seqAt
  exact ⟨s3, ((h1.trans h2).trans h3).congr (by omega) (by omega) rfl⟩

end

/-! ### The trace under the defaults -/

/-- R7's defaults with D35's crystal, any settle count and any mapping. -/
abbrev traceConfig (iter : Word) (mapped : List AddrRange) : Config :=
  { Config.d35 with oscSettleIter := iter, mapped := mapped }

/-- What the bring-up depends on is as in D35's configuration. -/
theorem drawnPolls_traceConfig (iter : Word) (mapped : List AddrRange) : DrawnPolls (traceConfig iter mapped) where
  plain := Eq.trans (b := clockWordsPlain Config.d35) rfl (by decide +kernel)
  disjoint := Eq.trans (b := Config.d35.highMask &&& Config.d35.lowMask) rfl (by decide +kernel)
  power := Eq.trans (b := inWindow Config.d35 (Config.d35.map.base + Config.d35.map.pdRunCfg)) rfl (by decide +kernel)
  polled := Eq.trans (b := (pollRows Config.d35).all fun row => inWindow Config.d35 row.2.1 && isVolatile Config.d35 row.2.1)
    rfl (by decide +kernel)

section
variable (iter : Word) (mapped : List AddrRange)

theorem pllSourceWrites_traceConfig : pllSourceWrites (traceConfig iter mapped) =
    [.busW 0x42904714 0, .busW 0x40048020 0, .busW 0x40048040 1, .busW 0x40048044 1, .busW 0x40048044 0,
      .busW 0x40048044 1] :=
  Eq.trans (b := pllSourceWrites Config.d35) rfl (by decide +kernel)

theorem pllWrites_traceConfig : pllWrites (traceConfig iter mapped) = [.busW 0x4290471C 0, .busW 0x40048008 0x25] :=
  Eq.trans (b := pllWrites Config.d35) rfl (by decide +kernel)

theorem mainClockWrites_traceConfig : mainClockWrites (traceConfig iter mapped) =
    [.busW 0x40048070 3, .busW 0x40048074 1, .busW 0x40048074 0, .busW 0x40048074 1] :=
  Eq.trans (b := mainClockWrites Config.d35) rfl (by decide +kernel)

/-- The three polled aliases and the divider's register of the trace, and the frequency recorded. -/
theorem traceConfig_words :
    busAddress (traceConfig iter mapped) (traceConfig iter mapped).ackPll.addr (traceConfig iter mapped).ackPll.bit
        = 0x42900880
      ∧ busAddress (traceConfig iter mapped) (regAt (traceConfig iter mapped) (traceConfig iter mapped).map.sysPllStat)
          (traceConfig iter mapped).lockBit = 0x42900180
      ∧ busAddress (traceConfig iter mapped) (traceConfig iter mapped).ackMain.addr (traceConfig iter mapped).ackMain.bit
          = 0x42900E80
      ∧ regAt (traceConfig iter mapped) (traceConfig iter mapped).map.sysAhbClkDiv = 0x40048078
      ∧ BitVec.ofNat 32 (freqHz (traceConfig iter mapped)) = 72000000#32 := by
  refine ⟨?_, ?_, ?_, ?_, ?_⟩
  · exact Eq.trans (b := busAddress Config.d35 Config.d35.ackPll.addr Config.d35.ackPll.bit) rfl (by decide +kernel)
  · exact Eq.trans (b := busAddress Config.d35 (regAt Config.d35 Config.d35.map.sysPllStat) Config.d35.lockBit) rfl
      (by decide +kernel)
  · exact Eq.trans (b := busAddress Config.d35 Config.d35.ackMain.addr Config.d35.ackMain.bit) rfl (by decide +kernel)
  · exact Eq.trans (b := regAt Config.d35 Config.d35.map.sysAhbClkDiv) rfl (by decide +kernel)
  · exact Eq.trans (b := BitVec.ofNat 32 (freqHz Config.d35)) rfl (by decide +kernel)

end

/-- Acceptance of `INITCLK` at rest in PRE-INIT (R143). -/
theorem advances_initclk {s : State} {rest : List ReqWord} (hs : ReadyPreInit s)
    (hreqs : s.reqs = 0x040000000000#48 :: rest) :
    ∃ t, runSteps 1 s = .next t ∧ SeqAt 0x01#6 t ∧ t.cfg = s.cfg ∧ t.reqs = rest ∧ t.draws = s.draws
      ∧ t.events = s.events := by
  obtain ⟨hund, ⟨hidle, hissued, hdone, hbusy⟩, hpre⟩ := hs
  have hstep := (step_accepts (i := .initclk) hund ⟨hidle, hissued, hdone, hbusy⟩ (.inl hpre) hreqs rfl).trans
    (initclkStartsTheBringup _ (by exact hpre))
  exact ⟨_, runSteps_succ hstep 0, ⟨hund, hidle, hissued, hdone, rfl, rfl⟩, rfl, rfl, rfl, rfl⟩

/-- R167's table for the words its three polls read, up to `S_RECORD`. -/
def traceEvents (r1 r2 r3 : List Word) : List Event :=
  [.busW 0x42904714 0, .busW 0x40048020 0, .busW 0x40048040 1, .busW 0x40048044 1, .busW 0x40048044 0,
      .busW 0x40048044 1]
    ++ r1.map (Event.busR 0x42900880) ++ [.busW 0x4290471C 0, .busW 0x40048008 0x25]
    ++ r2.map (Event.busR 0x42900180)
    ++ [.busW 0x40048070 3, .busW 0x40048074 1, .busW 0x40048074 0, .busW 0x40048074 1]
    ++ r3.map (Event.busR 0x42900E80) ++ [.busW 0x40048078 1]

/-- From the accepted `INITCLK` to `S_RECORD` under the defaults (R167). -/
theorem advances_toRecord {s : State} {iter : Word} {mapped : List AddrRange} {z1 z2 z3 later : List Word} {o1 o2 o3 : Word}
    (hcfg : s.cfg = traceConfig iter mapped) (h : SeqAt 0x01#6 s)
    (hdraws : s.draws = z1 ++ o1 :: (z2 ++ o2 :: (z3 ++ o3 :: later)))
    (hz : ∀ d ∈ z1 ++ z2 ++ z3, d.getLsbD 0 = false) (ho1 : o1.getLsbD 0 = true) (ho2 : o2.getLsbD 0 = true)
    (ho3 : o3.getLsbD 0 = true) :
    ∃ t, Advances (traceConfig iter mapped) (27 + iter.toNat + 3 * (z1.length + z2.length + z3.length)) 0x12#6
      (z1.length + z2.length + z3.length + 3)
      (traceEvents (z1 ++ [o1]) (z2 ++ [o2]) (z3 ++ [o3])) s t := by
  have hc := drawnPolls_traceConfig iter mapped
  obtain ⟨hack, hlock, hmain, hdiv, -⟩ := traceConfig_words iter mapped
  obtain ⟨s1, h1⟩ := advances_pllSource hc hcfg hdraws (fun d hd => hz d (by simp [hd])) ho1 h
  have hdraws1 : s1.draws = z2 ++ o2 :: (z3 ++ o3 :: later) := by
    rw [h1.draws, hdraws]
    simp
  obtain ⟨s2, h2⟩ := advances_pllLock hc h1.cfg hdraws1 (fun d hd => hz d (by simp [hd])) ho2 h1.seqAt
  have hdraws2 : s2.draws = z3 ++ o3 :: later := by
    rw [h2.draws, hdraws1]
    simp
  obtain ⟨s3, h3⟩ := advances_mainClock hc h2.cfg hdraws2 (fun d hd => hz d (by simp [hd])) ho3 h2.seqAt
  refine ⟨s3, ((h1.trans h2).trans h3).congr ?_ (by omega) ?_⟩
  · have hiter : (traceConfig iter mapped).oscSettleIter = iter := rfl
    rw [hiter]
    omega
  · rw [pllSourceWrites_traceConfig, pllWrites_traceConfig, mainClockWrites_traceConfig, hack, hlock, hmain, hdiv]
    simp only [traceEvents, List.append_assoc]
    rfl

/-- The record without the USB domain ends the bring-up: ClockState is written, and `INITCLK` is answered (R161, R164). -/
theorem step_recordLast {s : State} (h : SeqAt 0x12#6 s) (husb : s.cfg.usbEnable = false) :
    ∃ t, step s = .next t ∧ t.clockHz = some (BitVec.ofNat 32 (freqHz s.cfg)) ∧ t.rsp = some 0 ∧ t.seqState = 0x20#6
      ∧ Unmarked t ∧ AtRest t ∧ t.reqs = s.reqs ∧ t.events = s.events ++ [.resp 0] := by
  have hrecord := step_record h
  obtain ⟨⟨-, hu, -⟩, hidle, hissued, hdone, -⟩ := h
  rw [husb, if_neg Bool.false_ne_true] at hrecord
  exact ⟨_, hrecord, rfl, rfl, rfl, hu, ⟨hidle, hissued, hdone, rfl⟩, rfl, rfl⟩

/-- Settles O51: acceptance, the way to `S_RECORD`, and the record, which ends the bring-up. -/
theorem initclkTraceUnderTheDefaults : Obligations.InitclkTraceUnderTheDefaults := by
  intro s iter mapped rest z1 z2 z3 later o1 o2 o3 hs hcfg hreqs hdraws hz ho1 ho2 ho3
  obtain ⟨s0, hrun0, hat0, hcfg0, hreqs0, hdraws0, hevents0⟩ := advances_initclk hs hreqs
  obtain ⟨s1, h1⟩ := advances_toRecord (hcfg0.trans hcfg) hat0 (hdraws0.trans hdraws) hz ho1 ho2 ho3
  obtain ⟨t, hrecord, hclock, hrsp, hstable, hunmarked, hrest, hreqst, hevents⟩ :=
    step_recordLast h1.seqAt (by rw [h1.cfg]; rfl)
  have hrun := (runSteps_add hrun0 _).trans ((runSteps_add h1.run 1).trans (runSteps_succ hrecord 0))
  refine ⟨t, ?_, ?_, ?_, hrsp, hstable, hunmarked, hrest, hreqst.trans (h1.reqs.trans hreqs0)⟩
  · have hsteps : 29 + iter.toNat + 3 * (z1.length + z2.length + z3.length)
        = 1 + (27 + iter.toNat + 3 * (z1.length + z2.length + z3.length) + 1) := by omega
    rw [hsteps]
    exact hrun
  · rw [hevents, h1.events, hevents0]
    simp only [traceEvents, List.append_assoc]
    rfl
  · obtain ⟨-, -, -, -, hfreq⟩ := traceConfig_words iter mapped
    rw [hclock, h1.cfg, hfreq]

end Sys2Proof.Machine
end
